-- ==== Sys2Proof/Word.lean ====
section
/-! DEFINITION. The word types of the PJ32C: bytes and the wider fields that frames carry, and the
index types of its tables. Byte order and the frame check are in `Machine/Check.lean`. -/

namespace Sys2Proof

/-- One byte of a frame (R176). -/
abbrev Byte := BitVec 8

/-- A two-byte field: a sample value or bound (signed), a step limit, a serial, a stale timeout (R176, R178). -/
abbrev Half := BitVec 16

/-- A four-byte field: a source timestamp, a counter, a channel set (R177, R178, R179). -/
abbrev Word := BitVec 32

/-- A channel, 0 to 31 (R21). -/
abbrev Channel := Fin 32

/-- A factor, 0 to 31 (R76). -/
abbrev FactorNo := Fin 32

/-- A condition factor, 0 to 27: the only factors an entry can name (R27, R76). -/
abbrev ConditionFactor := Fin 28

/-- A group, 0 to 7 (R85). -/
abbrev GroupNo := Fin 8

end Sys2Proof
end

