-- ==== Sys2Proof/Config.lean ====
section
/-! DEFINITION. What this part fixes once: the capacities of its queues and lists, and the kind codes of
its frames. The spec calls no value undefined, so there is no free value here (notes/assumptions/17.md); the bits
of sent bytes that it does not name are 0 (notes/assumptions/18.md). -/

namespace Sys2Proof.Config

/-- Capacity of the ingress frame queue (R1). -/
def ifqCapacity : Nat := 8
/-- Capacity of the forward queue (R144, R154). -/
def forwardCapacity : Nat := 8
/-- Response queue entries plus reservations never exceed this (R155). -/
def responseCapacity : Nat := 6
/-- Capacity of the command queue (R160). -/
def commandCapacity : Nat := 4
/-- Capacity of the substitution list (R115). -/
def substitutionCapacity : Nat := 8
/-- Capacity of the capture list (R128). -/
def captureCapacity : Nat := 4
/-- The most credits held (R149). -/
def creditCap : Nat := 63
/-- Where the excuse count saturates (R10). -/
def excuseCap : Nat := 255
/-- Where a raise count saturates (R77). -/
def raiseCap : Nat := 255

/-- Kind codes (R176). -/
def kindSample : Byte := 17
def kindForwarded : Byte := 18
def kindReport : Byte := 33
def kindResponse : Byte := 49
def kindCommand : Byte := 65
def kindCredit : Byte := 81

/-- Link factors (R76). -/
def linkError : FactorNo := 28
def gap : FactorNo := 29
def overrun : FactorNo := 30
def linkStale : FactorNo := 31

end Sys2Proof.Config
end

