-- ==== Sys2Proof/Machine/Check.lean ====
section
/-! DEFINITION. Bytes on the links: byte order, the 16-bit frame check, and the two tests of a received
frame that every receiver makes first (R176). -/

namespace Sys2Proof.Machine

/-- Two bytes, most significant first (R176). -/
def halfBytes (h : Half) : List Byte := [h.extractLsb' 8 8, h.extractLsb' 0 8]

/-- Four bytes, most significant first (R176). -/
def wordBytes (w : Word) : List Byte :=
  [w.extractLsb' 24 8, w.extractLsb' 16 8, w.extractLsb' 8 8, w.extractLsb' 0 8]

/-- A field of two bytes read most significant byte first (R176). -/
def halfOf (high low : Byte) : Half := high ++ low

/-- A field of four bytes read most significant byte first (R176). -/
def wordOf (a b c d : Byte) : Word := a ++ b ++ c ++ d

/-- One bit of the check: shift left, and subtract the generator x^16 + x^12 + x^5 + 1 when a one is
shifted out (R176). -/
def crcShift (r : Half) : Half := if r.msb then (r <<< 1) ^^^ 0x1021 else r <<< 1

/-- One byte of the check, most significant bit first (R176). -/
def crcByte (r : Half) (b : Byte) : Half :=
  crcShift (crcShift (crcShift (crcShift (crcShift (crcShift (crcShift (crcShift
    (r ^^^ (b ++ (0 : Byte))))))))))

/-- The check over a run of bytes: the register starts at 65535, no reflection and no final inversion (R176). -/
def crc (bytes : List Byte) : Half := bytes.foldl crcByte 65535

/-- A frame as sent: its bytes and then their check (R176). -/
def withCheck (body : List Byte) : List Byte := body ++ halfBytes (crc body)

/-- The bytes of a received frame before its check. -/
def bodyOf (frame : List Byte) : List Byte := frame.take (frame.length - 2)

/-- The check recomputed over a received frame matches the one it carries, in its last two bytes (R176).
A run of fewer than two bytes carries no check (notes/assumptions/9.md). -/
def checkGood (frame : List Byte) : Bool :=
  2 ≤ frame.length && frame.drop (frame.length - 2) == halfBytes (crc (bodyOf frame))

/-- The kind code of a frame, at position 0 (R176); a frame of no bytes has none. -/
def kindOf (frame : List Byte) : Option Byte := frame.head?

/-- A return-lane frame that the line interface hands to the DLT: good check, credit kind code (R148).
Its length plays no part (R180). -/
def isCreditFrame (frame : List Byte) : Bool :=
  checkGood frame && kindOf frame == some Config.kindCredit

/-- The argument length of each of the sixteen commands; none for a code that is not defined (R179). -/
def argumentLength (code : Byte) : Option Nat :=
  match code.toNat with
  | 1 => some 2
  | 2 => some 15
  | 3 => some 0
  | 4 => some 0
  | 5 => some 3
  | 6 => some 1
  | 7 => some 2
  | 8 => some 3
  | 9 => some 1
  | 10 => some 4
  | 11 => some 0
  | 12 => some 5
  | 13 => some 1
  | 14 => some 1
  | 15 => some 3
  | 16 => some 0
  | _ => none

end Sys2Proof.Machine
end

