-- ==== Sys2Proof/Syntax.lean ====
section
/-! DEFINITION. The events the PJ32C takes: one constructor per row of `spec/opcode_table.json`, with the
row's operands. A row that stands for a command's execution carries the tag and the arguments as the
command frame carries them (R179, notes/assumptions/3.md); a row that stands for a received frame carries
the frame's bytes. -/

namespace Sys2Proof

/-- The two sources of raises (R80). -/
inductive RaiseSource where
  /-- The condition engine: factors 0 to 27. -/
  | conditionEngine
  /-- The acquisition link receiver: factors 28 to 31. -/
  | acquisitionLink
  deriving DecidableEq, Repr

/-- The entry a WRITE-ENTRY carries, in frame fields wide enough for values outside their ranges (R28, R179). -/
structure EntryArgs where
  mode : Byte
  high : Half
  low : Half
  hysteresis : Half
  stepLimit : Half
  onsetCount : Byte
  releaseCount : Byte
  presence : Byte
  onsetFactor : Byte
  releaseFactor : Byte
  deriving DecidableEq, Repr

/-- The events, one constructor per row of the table. -/
inductive Instr where
  /-- PORST_ASSERT (R182). -/
  | porstAssert
  /-- PORST_RELEASE (R182). -/
  | porstRelease
  /-- LOCK_GAINED (R2). -/
  | lockGained
  /-- LOCK_LOST (R3). -/
  | lockLost
  /-- ARRIVAL of one complete frame on the A-link (R4). -/
  | arrival (frame : List Byte)
  /-- STALE_TIMER_EXPIRY (R15). -/
  | staleTimerExpiry
  /-- DECLARATION_HANDED_TO_CE (R69). -/
  | declarationHandedToCe
  /-- FRAME_BOUNDARY (R42). -/
  | frameBoundary
  /-- FACTOR_RAISE: the FRU takes the next raise of one source (R79, R80). -/
  | factorRaise (source : RaiseSource)
  /-- SELECTION_ATTEMPT (R99). -/
  | selectionAttempt
  /-- COMMAND_FRAME: a return-lane frame that is no credit frame (R161, R162). -/
  | commandFrame (frame : List Byte)
  /-- CREDIT_FRAME: a return-lane frame with a good check and the credit kind code (R148, R149). -/
  | creditFrame (frame : List Byte)
  /-- TRANSMISSION_START (R152). -/
  | transmissionStart
  /-- TRANSMISSION_END (R153). -/
  | transmissionEnd
  /-- LINK_UP (R145). -/
  | linkUp
  /-- LINK_DOWN, the delivery link reset (R146). -/
  | linkDown
  /-- READ_ENTRY (R33). -/
  | readEntry (tag channel bank : Byte)
  /-- WRITE_ENTRY (R28). -/
  | writeEntry (tag channel : Byte) (entry : EntryArgs)
  /-- LOAD_SHADOW (R31). -/
  | loadShadow (tag : Byte)
  /-- COMMIT (R63). -/
  | commit (tag : Byte)
  /-- SET_GROUP (R89). -/
  | setGroup (tag group level enables : Byte)
  /-- READ_GROUP (R91). -/
  | readGroup (tag group : Byte)
  /-- CLEAR_FACTORS (R82). -/
  | clearFactors (tag group mask : Byte)
  /-- RETURN (R106). -/
  | returnLevel (tag depth presence factor : Byte)
  /-- REPORT_GATE (R97). -/
  | reportGate (tag gate : Byte)
  /-- SUBSTITUTE (R117). -/
  | substitute (tag channel form : Byte) (value : Half)
  /-- READ_SUBSTITUTIONS (R127). -/
  | readSubstitutions (tag : Byte)
  /-- CAPTURE (R131). -/
  | capture (tag : Byte) (channels : Word) (limit : Byte)
  /-- CANCEL_CAPTURE (R140). -/
  | cancelCapture (tag captureTag : Byte)
  /-- READ_STATUS (R171). -/
  | readStatus (tag clearCounters : Byte)
  /-- SET_LINK (R174). -/
  | setLink (tag : Byte) (timeout : Half) (forwarding : Byte)
  /-- RESYNC (R175). -/
  | resync (tag : Byte)
  /-- UNKNOWN_COMMAND: a command frame whose code is none of the sixteen (R167). -/
  | unknownCommand (tag code : Byte) (arguments : List Byte)
  deriving DecidableEq, Repr

end Sys2Proof
end

