-- ==== Sys2Proof/WellFormed.lean ====
section
/-! DEFINITION. Which terms of `Instr` name an event of their row. Operands of the commands are checked by
the part itself, so every value of them is well formed. -/

namespace Sys2Proof

/-- Three checks: a CREDIT_FRAME's bytes are a credit frame, a COMMAND_FRAME's are not (R148), and an
UNKNOWN_COMMAND's code is none of the sixteen (R167). -/
def Instr.wellFormed : Instr → Bool
  | .creditFrame frame => Machine.isCreditFrame frame
  | .commandFrame frame => !Machine.isCreditFrame frame
  | .unknownCommand _ code _ => (Machine.argumentLength code).isNone
  | .porstAssert | .porstRelease | .lockGained | .lockLost | .arrival _ | .staleTimerExpiry
  | .declarationHandedToCe | .frameBoundary | .factorRaise _ | .selectionAttempt
  | .transmissionStart | .transmissionEnd | .linkUp | .linkDown
  | .readEntry _ _ _ | .writeEntry _ _ _ | .loadShadow _ | .commit _ | .setGroup _ _ _ _
  | .readGroup _ _ | .clearFactors _ _ _ | .returnLevel _ _ _ _ | .reportGate _ _
  | .substitute _ _ _ _ | .readSubstitutions _ | .capture _ _ _ | .cancelCapture _ _
  | .readStatus _ _ | .setLink _ _ _ | .resync _ => true

end Sys2Proof
end

