-- ==== Sys2Proof/Decode.lean ====
section
/-! DEFINITION. The command that a word of the opcode table's bits spells. No row of
`spec/opcode_table.json` gives bits (each row's fields are empty), so no word spells one
(notes/assumptions/15.md). The byte layouts of command frames are read in `Machine/Operands.lean`. -/

namespace Sys2Proof

/-- No row of the table gives bits, so no word is a command. -/
def decodeTableWord (nbits w : Nat) : Option Instr :=
  match nbits, w with
  | _, _ => none

end Sys2Proof
end

