-- ==== Sys2Proof/Machine/State.lean ====
section
/-! DEFINITION. The state of the PJ32C as plain data, block by block, as the spec's owners hold it
(00 "Functional overview"), and its power-on reset values. -/

namespace Sys2Proof.Machine

/-! ### Acquisition link receiver (chapter 1) -/

/-- The PORST input (R182). -/
inductive Pin where
  | released
  | asserted
  deriving DecidableEq, Repr

/-- Lock state (R1). -/
inductive Lock where
  | unlocked
  | locked
  deriving DecidableEq, Repr

/-- Freshness (R1, R17). -/
inductive Freshness where
  | never
  | fresh
  | stale
  deriving DecidableEq, Repr

/-- Stale timer: STOPPED, or RUNNING with a remaining count of time-base periods (R1, R15). -/
inductive Timer where
  | stopped
  | running (remaining : Nat)
  deriving DecidableEq, Repr

/-- One entry of a sample frame (section 3.4). -/
structure Sample where
  channel : Channel
  value : Half
  deriving DecidableEq, Repr

/-- An accepted frame in the IFQ (section 1.5); its entry count is the number of its samples. -/
structure Frame where
  sequence : Byte
  timestamp : Word
  samples : List Sample
  gapBefore : Bool
  deriving DecidableEq, Repr

/-- The seven ingress counters (R20). -/
structure IngressCounters where
  accepted : Word
  checkFail : Word
  formatFail : Word
  late : Word
  overrun : Word
  missed : Word
  staleDeclarations : Word
  deriving DecidableEq, Repr

/-- State of the ALR (R1). `expected = none` is UNSYNCED. -/
structure Alr where
  lock : Lock
  expected : Option Byte
  excuse : Nat
  ifq : List Frame
  timeout : Half
  timer : Timer
  freshness : Freshness
  counters : IngressCounters
  deriving DecidableEq, Repr

/-! ### Condition engine (chapters 2, 3, 4, 7, 8) -/

/-- Mode of an entry (R23). -/
inductive Mode where
  | off
  | above
  | below
  | outside
  | inside
  | step
  deriving DecidableEq, Repr

/-- An entry of the channel condition table (R21, R23 to R27). -/
structure Entry where
  mode : Mode
  high : Half
  low : Half
  hysteresis : Half
  stepLimit : Half
  onsetCount : Byte
  releaseCount : Byte
  onsetFactor : Option ConditionFactor
  releaseFactor : Option ConditionFactor
  deriving DecidableEq, Repr

/-- A bank: one entry per channel (R21). -/
abbrev Bank := Vector Entry 32

/-- Where a channel stands against its ACTIVE entry (R36). -/
inductive ChannelState where
  | clear
  | onset
  | active
  | release
  deriving DecidableEq, Repr

/-- A live state record (R35). -/
structure Live where
  state : ChannelState
  run : Nat
  previous : Option Half
  lastSeen : Option Byte
  deriving DecidableEq, Repr

/-- The fields a commit record has while PENDING (R62). -/
structure PendingCommit where
  tag : Byte
  suppressed : Bool
  deriving DecidableEq, Repr

/-- A substitution in force (R116). -/
inductive Substitution where
  | force (value : Half)
  | hold (value : Half)
  deriving DecidableEq, Repr

/-- A substitution change waiting for the next boundary (R116). -/
inductive Change where
  | force (value : Half)
  | hold
  | remove
  deriving DecidableEq, Repr

/-- An entry of the substitution list (R116). -/
structure SubstitutionEntry where
  channel : Channel
  current : Option Substitution
  next : Option Change
  deriving DecidableEq, Repr

/-- What a collected slot holds (R129). -/
structure Collected where
  value : Half
  sequence : Byte
  substituted : Bool
  deriving DecidableEq, Repr

/-- State of a capture record with its frames remaining, which is absent while WAITING (R129). -/
inductive Phase where
  | waiting
  | collecting (remaining : Nat)
  deriving DecidableEq, Repr

/-- A capture record (R129). Bit c of `channels` is set when channel c is in the set; only those slots count. -/
structure CaptureRecord where
  tag : Byte
  channels : Word
  limit : Nat
  phase : Phase
  slots : Vector (Option Collected) 32
  deriving DecidableEq, Repr

/-- Forward mode (R38). -/
inductive ForwardMode where
  | off
  | on
  deriving DecidableEq, Repr

/-- State of the CE with commit control, the substitution list and the capture list
(R21, R35, R38, R62, R115, R128). `commit = none` is the record in state NONE. -/
structure Ce where
  active : Bank
  shadow : Bank
  live : Vector Live 32
  forwarding : ForwardMode
  forwarded : Word
  shed : Word
  commit : Option PendingCommit
  substitutions : List SubstitutionEntry
  captures : List CaptureRecord
  deriving DecidableEq, Repr

/-! ### Factor and report unit (chapters 5, 6) -/

/-- First cause, four optional sub-fields (R76). -/
structure Cause where
  sequence : Option Byte
  timestamp : Option Word
  channel : Option Channel
  value : Option Half
  deriving DecidableEq, Repr

/-- A factor record (R76). -/
structure FactorRecord where
  raised : Bool
  count : Nat
  cause : Cause
  deriving DecidableEq, Repr

/-- A group record (R85): bit k of `enables` is the enable of factor 4g + k. -/
structure GroupRecord where
  level : Fin 4
  enables : BitVec 4
  deriving DecidableEq, Repr

/-- Report gate (R93). -/
inductive Gate where
  | closed
  | opened
  deriving DecidableEq, Repr

/-- A report (R104). -/
structure Report where
  serial : Half
  factor : FactorNo
  level : Nat
  depth : Nat
  count : Nat
  cause : Cause
  groupRaised : BitVec 4
  freshness : Freshness
  deriving DecidableEq, Repr

/-- State of the FRU (R76, R85, R93). The depth is the number of saved levels, listed bottom to top. -/
structure Fru where
  factors : Vector FactorRecord 32
  groups : Vector GroupRecord 8
  gate : Gate
  level : Nat
  saved : List Nat
  slot : Option Report
  serial : Half
  deriving DecidableEq, Repr

/-! ### Delivery link transmitter (chapter 9) -/

/-- D-link state (R144). -/
inductive Link where
  | down
  | up
  deriving DecidableEq, Repr

/-- An entry of an output frame (R57). -/
structure OutputSample where
  channel : Channel
  value : Half
  substituted : Bool
  deriving DecidableEq, Repr

/-- An output frame (R57). -/
structure OutputFrame where
  sequence : Byte
  timestamp : Word
  gapBefore : Bool
  samples : List OutputSample
  deriving DecidableEq, Repr

/-- The seventeen response codes (R165). -/
inductive ResponseCode where
  | done
  | badArgument
  | badEntry
  | commitPending
  | notInService
  | staleReturn
  | listFull
  | noValue
  | captureBusy
  | tagInUse
  | noSuchCapture
  | unknownCommand
  | commitDone
  | captureComplete
  | captureTimeout
  | captureStale
  | captureCancelled
  deriving DecidableEq, Repr

/-- A response frame: tag and command code of the command answered, response code, payload (R165). -/
structure Response where
  tag : Byte
  command : Byte
  code : ResponseCode
  payload : List Byte
  deriving DecidableEq, Repr

/-- The frame in transmission with its kind: REPORT, RESPONSE or SAMPLE (R144). -/
inductive OutFrame where
  | report (r : Report)
  | response (r : Response)
  | sample (f : OutputFrame)
  deriving DecidableEq, Repr

/-- The five egress counters (R144, R158). -/
structure EgressCounters where
  sampleStarted : Word
  reportStarted : Word
  responseStarted : Word
  abandoned : Word
  creditDiscarded : Word
  deriving DecidableEq, Repr

/-- State of the DLT (R144). -/
structure Dlt where
  link : Link
  credits : Nat
  transmitting : Option OutFrame
  forwardQueue : List OutputFrame
  responses : List Response
  reservations : Nat
  counters : EgressCounters
  deriving DecidableEq, Repr

/-! ### Management executor (chapter 10) -/

/-- A command frame as received: its tag, its command code and its arguments (R160). -/
structure CommandFrame where
  tag : Byte
  code : Byte
  arguments : List Byte
  deriving DecidableEq, Repr

/-- State of the MX (R160). -/
structure Mx where
  queue : List CommandFrame
  checkFail : Word
  discarded : Word
  deriving DecidableEq, Repr

/-! ### Between the blocks -/

/-- A raise: a factor number and a first cause (R79). -/
structure Raise where
  factor : FactorNo
  cause : Cause
  deriving DecidableEq, Repr

/-- What one block has handed to another and the other has not yet taken: the raises of each source, in the
order it handed them over (R80), and STALE declarations on their way to the CE (R16, R41).
DEDUCED, safe: notes/assumptions/2.md. -/
structure Handed where
  acquisition : List Raise
  condition : List Raise
  declarations : Nat
  deriving DecidableEq, Repr

/-- The whole part, and the events waiting to be taken. -/
structure State where
  porst : Pin
  alr : Alr
  ce : Ce
  fru : Fru
  dlt : Dlt
  mx : Mx
  handed : Handed
  pending : List Instr
  deriving DecidableEq, Repr

/-- Why a step would stop with a fault. There is no constructor: "no error condition stops the sample path or
the event path" (00 "Errors and their reporting"). Nobody raises one. -/
inductive Fault where
  deriving DecidableEq, Repr

/-- Why a step would refuse. -/
inductive Refusal where
  /-- An arm of exec without a meaning. Safe. No arm of this model raises it. -/
  | notModelled (mnemonic : String)
  deriving DecidableEq, Repr

/-! ### Power-on reset values -/

/-- The power-on reset entry (R21). -/
def Entry.reset : Entry :=
  ⟨.off, 0, 0, 0, 1, 1, 1, none, none⟩

/-- The power-on reset live state (R35). -/
def Live.reset : Live := ⟨.clear, 0, none, none⟩

/-- A first cause with all four sub-fields absent (R76). -/
def Cause.absent : Cause := ⟨none, none, none, none⟩

/-- The power-on reset factor record, which is also a cleared one (R76, R81). -/
def FactorRecord.reset : FactorRecord := ⟨false, 0, .absent⟩

/-- The power-on reset group record of a group (R85): factor 31 alone is enabled. -/
def GroupRecord.reset (g : GroupNo) : GroupRecord := ⟨0, if g = 7 then 8 else 0⟩

/-- R1. -/
def Alr.reset : Alr := ⟨.unlocked, none, 0, [], 0, .stopped, .never, ⟨0, 0, 0, 0, 0, 0, 0⟩⟩

/-- R21, R35, R38, R62, R115, R128. -/
def Ce.reset : Ce :=
  ⟨Vector.replicate 32 .reset, Vector.replicate 32 .reset, Vector.replicate 32 .reset, .on, 0, 0, none, [], []⟩

/-- R76, R85, R93. -/
def Fru.reset : Fru :=
  ⟨Vector.replicate 32 .reset, Vector.ofFn GroupRecord.reset, .closed, 0, [], none, 0⟩

/-- R144. -/
def Dlt.reset : Dlt := ⟨.down, 0, none, [], [], 0, ⟨0, 0, 0, 0, 0⟩⟩

/-- R160. -/
def Mx.reset : Mx := ⟨[], 0, 0⟩

/-- Nothing on its way: no factor is raised and no declaration is taken at power-on reset (R182). -/
def Handed.reset : Handed := ⟨[], [], 0⟩

/-- The part right after power-on reset (R182), PORST released. That the pin is released in it is a DESIGN
CHOICE, unsafe: notes/assumptions/5.md. -/
def State.reset : State :=
  ⟨.released, .reset, .reset, .reset, .reset, .reset, .reset, []⟩

end Sys2Proof.Machine
end

