-- ==== Sys2Proof/Machine/Operands.lean ====
section
/-! DEFINITION. Everything the part reads from received bytes and every byte layout it sends: the codes of
the enumerated fields, the readings of sample and command frames, the arguments of a command, and the
layouts of outbound frames (R176 to R181). -/

namespace Sys2Proof.Machine

/-! ### Codes of the enumerated fields (R178) -/

def flagByte (b : Bool) : Byte := if b then 1 else 0

def Mode.byte : Mode → Byte
  | .off => 0
  | .above => 1
  | .below => 2
  | .outside => 3
  | .inside => 4
  | .step => 5

def Mode.ofByte (b : Byte) : Option Mode :=
  match b.toNat with
  | 0 => some .off
  | 1 => some .above
  | 2 => some .below
  | 3 => some .outside
  | 4 => some .inside
  | 5 => some .step
  | _ => none

def ChannelState.byte : ChannelState → Byte
  | .clear => 0
  | .onset => 1
  | .active => 2
  | .release => 3

def Freshness.byte : Freshness → Byte
  | .never => 0
  | .fresh => 1
  | .stale => 2

def Lock.byte : Lock → Byte
  | .unlocked => 0
  | .locked => 1

def Link.byte : Link → Byte
  | .down => 0
  | .up => 1

def Gate.byte : Gate → Byte
  | .closed => 0
  | .opened => 1

def ForwardMode.byte : ForwardMode → Byte
  | .off => 0
  | .on => 1

def Timer.byte : Timer → Byte
  | .stopped => 0
  | .running _ => 1

/-- Gate argument of REPORT-GATE: 0 CLOSED, 1 OPEN (R178). -/
def Gate.ofByte (b : Byte) : Option Gate :=
  match b.toNat with
  | 0 => some .closed
  | 1 => some .opened
  | _ => none

/-- Forward mode argument of SET-LINK: 0 OFF, 1 ON (R178). -/
def ForwardMode.ofByte (b : Byte) : Option ForwardMode :=
  match b.toNat with
  | 0 => some .off
  | 1 => some .on
  | _ => none

/-- A channel argument, 0 to 31 (R168). -/
def channelOf (b : Byte) : Option Channel :=
  if h : b.toNat < 32 then some ⟨b.toNat, h⟩ else none

/-- A factor argument, 0 to 31 (R106). -/
def factorOf (b : Byte) : Option FactorNo :=
  if h : b.toNat < 32 then some ⟨b.toNat, h⟩ else none

/-- A group argument, 0 to 7 (R168). -/
def groupOf (b : Byte) : Option GroupNo :=
  if h : b.toNat < 8 then some ⟨b.toNat, h⟩ else none

/-- A level argument, 0 to 3 (R168). -/
def levelOf (b : Byte) : Option (Fin 4) :=
  if h : b.toNat < 4 then some ⟨b.toNat, h⟩ else none

/-- A mask or enables argument, 0 to 15 (R168). -/
def nibbleOf (b : Byte) : Option (BitVec 4) :=
  if b.toNat < 16 then some (b.extractLsb' 0 4) else none

/-- A byte holding a number the part keeps within a byte (R178). -/
def byteOf (n : Nat) : Byte := BitVec.ofNat 8 n

/-- Four flags as one byte (R179, R181). Bits 4 to 7, which no rule names when the part sends them, are sent as 0: the
model's choice (notes/assumptions/18.md). -/
def nibbleByte (n : BitVec 4) : Byte := n.setWidth 8

def ResponseCode.byte : ResponseCode → Byte
  | .done => 0
  | .badArgument => 1
  | .badEntry => 2
  | .commitPending => 3
  | .notInService => 4
  | .staleReturn => 5
  | .listFull => 6
  | .noValue => 7
  | .captureBusy => 8
  | .tagInUse => 9
  | .noSuchCapture => 10
  | .unknownCommand => 11
  | .commitDone => 12
  | .captureComplete => 13
  | .captureTimeout => 14
  | .captureStale => 15
  | .captureCancelled => 16

/-- The codes that answer a command which changed no state other than the response queue (R165). -/
def ResponseCode.isRefusal : ResponseCode → Bool
  | .badArgument | .badEntry | .commitPending | .notInService | .staleReturn | .listFull | .noValue
  | .captureBusy | .tagInUse | .noSuchCapture | .unknownCommand => true
  | .done | .commitDone | .captureComplete | .captureTimeout | .captureStale | .captureCancelled => false

/-! ### Optional fields: presence byte, then the value, 0 when absent (R178) -/

def optionalByte : Option Byte → List Byte
  | none => [0, 0]
  | some b => [1, b]

def optionalHalf : Option Half → List Byte
  | none => [0, 0, 0]
  | some h => 1 :: halfBytes h

/-- The value byte of a factor whose presence stands elsewhere. -/
def factorByte : Option ConditionFactor → Byte
  | none => 0
  | some f => byteOf f.val

/-! ### Reading an arrival (R4, R177) -/

/-- The entries of a sample frame: `n` of them, from the bytes after the entry count. -/
def readSamples : Nat → List Byte → Option (List Sample)
  | 0, _ => some []
  | n + 1, c :: h :: l :: rest =>
    match channelOf c, readSamples n rest with
    | some channel, some samples => some (⟨channel, halfOf h l⟩ :: samples)
    | _, _ => none
  | _ + 1, _ => none

/-- What tests 1 and 2 of R4 make of an arrival. -/
inductive Reading where
  | checkFail
  | formatFail (sequence : Byte) (timestamp : Word)
  | good (sequence : Byte) (timestamp : Word) (samples : List Sample)
  deriving DecidableEq, Repr

/-- Tests 1 and 2 of R4, with the layout and the three format cases of R177. The shortest readable arrival
is 9 bytes: kind, sequence, timestamp, entry count and check. -/
def readArrival (frame : List Byte) : Reading :=
  if !checkGood frame then .checkFail
  else
    match frame with
    | kind :: sequence :: t3 :: t2 :: t1 :: t0 :: count :: rest =>
      if kind ≠ Config.kindSample ∨ frame.length < 9 then .checkFail
      else if count = 0 ∨ 16 < count.toNat ∨ frame.length ≠ 9 + 3 * count.toNat then
        .formatFail sequence (wordOf t3 t2 t1 t0)
      else
        match readSamples count.toNat rest with
        | some samples => .good sequence (wordOf t3 t2 t1 t0) samples
        | none => .formatFail sequence (wordOf t3 t2 t1 t0)
    | _ => .checkFail

/-- The sample frame that the acquisition source must produce (R177, first table). -/
def sampleFrameBytes (sequence : Byte) (timestamp : Word) (samples : List Sample) : List Byte :=
  withCheck (Config.kindSample :: sequence :: wordBytes timestamp ++ [byteOf samples.length] ++
    samples.flatMap fun x => byteOf x.channel.val :: halfBytes x.value)

/-! ### Reading a command frame (R161, R179, R180) -/

/-- The four tests of R161 and the fields of a good command frame; none when one of the tests drops it. -/
def readCommandFrame (frame : List Byte) : Option CommandFrame :=
  if !checkGood frame then none
  else
    match frame with
    | kind :: tag :: code :: rest =>
      if kind ≠ Config.kindCommand ∨ frame.length < 5 then none
      else
        match argumentLength code with
        | some n => if rest.length = n + 2 then some ⟨tag, code, rest.take n⟩ else none
        | none => some ⟨tag, code, rest.take (rest.length - 2)⟩
    | _ => none

/-- A command frame as the consumer sends it (R179). -/
def CommandFrame.bytes (f : CommandFrame) : List Byte :=
  withCheck (Config.kindCommand :: f.tag :: f.code :: f.arguments)

/-- The 14 entry bytes, in WRITE-ENTRY order after the channel (R179). -/
def EntryArgs.bytes (e : EntryArgs) : List Byte :=
  e.mode :: halfBytes e.high ++ halfBytes e.low ++ halfBytes e.hysteresis ++ halfBytes e.stepLimit ++
    [e.onsetCount, e.releaseCount, e.presence, e.onsetFactor, e.releaseFactor]

/-- The command frame that a command's row executes (R179); none for a row that is no command. -/
def commandOf : Instr → Option CommandFrame
  | .readEntry tag channel bank => some ⟨tag, 1, [channel, bank]⟩
  | .writeEntry tag channel entry => some ⟨tag, 2, channel :: EntryArgs.bytes entry⟩
  | .loadShadow tag => some ⟨tag, 3, []⟩
  | .commit tag => some ⟨tag, 4, []⟩
  | .setGroup tag group level enables => some ⟨tag, 5, [group, level, enables]⟩
  | .readGroup tag group => some ⟨tag, 6, [group]⟩
  | .clearFactors tag group mask => some ⟨tag, 7, [group, mask]⟩
  | .returnLevel tag depth presence factor => some ⟨tag, 8, [depth, presence, factor]⟩
  | .reportGate tag gate => some ⟨tag, 9, [gate]⟩
  | .substitute tag channel form value => some ⟨tag, 10, channel :: form :: halfBytes value⟩
  | .readSubstitutions tag => some ⟨tag, 11, []⟩
  | .capture tag channels limit => some ⟨tag, 12, wordBytes channels ++ [limit]⟩
  | .cancelCapture tag captureTag => some ⟨tag, 13, [captureTag]⟩
  | .readStatus tag clearCounters => some ⟨tag, 14, [clearCounters]⟩
  | .setLink tag timeout forwarding => some ⟨tag, 15, halfBytes timeout ++ [forwarding]⟩
  | .resync tag => some ⟨tag, 16, []⟩
  | .unknownCommand tag code arguments => some ⟨tag, code, arguments⟩
  | .porstAssert | .porstRelease | .lockGained | .lockLost | .arrival _ | .staleTimerExpiry
  | .declarationHandedToCe | .frameBoundary | .factorRaise _ | .selectionAttempt | .commandFrame _
  | .creditFrame _ | .transmissionStart | .transmissionEnd | .linkUp | .linkDown => none

/-- Argument byte `i` of a command frame; a good frame has every byte its command names (R161 test 4). -/
def CommandFrame.arg (f : CommandFrame) (i : Nat) : Byte := f.arguments.getD i 0

/-- Two argument bytes from `i`, most significant first. -/
def CommandFrame.argHalf (f : CommandFrame) (i : Nat) : Half := halfOf (f.arg i) (f.arg (i + 1))

/-- The row that executes a command frame: its arguments read by the table of R179. -/
def CommandFrame.row (f : CommandFrame) : Instr :=
  match f.code.toNat with
  | 1 => .readEntry f.tag (f.arg 0) (f.arg 1)
  | 2 => .writeEntry f.tag (f.arg 0)
      ⟨f.arg 1, f.argHalf 2, f.argHalf 4, f.argHalf 6, f.argHalf 8, f.arg 10, f.arg 11, f.arg 12, f.arg 13, f.arg 14⟩
  | 3 => .loadShadow f.tag
  | 4 => .commit f.tag
  | 5 => .setGroup f.tag (f.arg 0) (f.arg 1) (f.arg 2)
  | 6 => .readGroup f.tag (f.arg 0)
  | 7 => .clearFactors f.tag (f.arg 0) (f.arg 1)
  | 8 => .returnLevel f.tag (f.arg 0) (f.arg 1) (f.arg 2)
  | 9 => .reportGate f.tag (f.arg 0)
  | 10 => .substitute f.tag (f.arg 0) (f.arg 1) (f.argHalf 2)
  | 11 => .readSubstitutions f.tag
  | 12 => .capture f.tag (wordOf (f.arg 0) (f.arg 1) (f.arg 2) (f.arg 3)) (f.arg 4)
  | 13 => .cancelCapture f.tag (f.arg 0)
  | 14 => .readStatus f.tag (f.arg 0)
  | 15 => .setLink f.tag (f.argHalf 0) (f.arg 2)
  | 16 => .resync f.tag
  | _ => .unknownCommand f.tag f.code f.arguments

/-! ### The entry carried by WRITE-ENTRY (R29, R180) -/

/-- A factor of the carried entry: absent when its presence bit is 0, whatever its byte holds (R180). -/
def EntryArgs.onset (e : EntryArgs) : Option Byte :=
  if e.presence.getLsbD 0 then some e.onsetFactor else none

def EntryArgs.release (e : EntryArgs) : Option Byte :=
  if e.presence.getLsbD 1 then some e.releaseFactor else none

/-- The factor is present and above 27 (checks 6 and 7). -/
def factorOutOfRange : Option Byte → Bool
  | none => false
  | some b => 27 < b.toNat

/-- The nine entry checks of R29 in the order of their numbers: the first that fails, or none. Check 9 is
exact and does not saturate. -/
def EntryArgs.failedCheck (e : EntryArgs) : Option Nat :=
  let mode := Mode.ofByte e.mode
  let window := e.high.toInt - e.low.toInt
  if mode = none then some 1
  else if 4095 < e.hysteresis.toNat then some 2
  else if e.stepLimit.toNat = 0 ∨ 32767 < e.stepLimit.toNat then some 3
  else if e.onsetCount.toNat = 0 ∨ 64 < e.onsetCount.toNat then some 4
  else if e.releaseCount.toNat = 0 ∨ 64 < e.releaseCount.toNat then some 5
  else if factorOutOfRange (EntryArgs.onset e) then some 6
  else if factorOutOfRange (EntryArgs.release e) then some 7
  else if (mode = some .outside ∨ mode = some .inside) ∧ e.high.toInt < e.low.toInt then some 8
  else if mode = some .outside ∧ window < 2 * (e.hysteresis.toNat : Int) then some 9
  else none

/-- A stored factor field. -/
def conditionFactorOf (b : Byte) : Option ConditionFactor :=
  if h : b.toNat < 28 then some ⟨b.toNat, h⟩ else none

/-- The entry as the table stores it, once `failedCheck` is none (R30). -/
def EntryArgs.entry (e : EntryArgs) : Entry :=
  ⟨(Mode.ofByte e.mode).getD .off, e.high, e.low, e.hysteresis, e.stepLimit, e.onsetCount, e.releaseCount,
    (EntryArgs.onset e).bind conditionFactorOf, (EntryArgs.release e).bind conditionFactorOf⟩

/-- The 14 entry bytes as the part sends them (R181). No rule names bits 2 to 7 of the factor-presence byte when the part
sends it: that they are sent as 0 is the model's choice (notes/assumptions/18.md). -/
def Entry.bytes (e : Entry) : List Byte :=
  EntryArgs.bytes ⟨e.mode.byte, e.high, e.low, e.hysteresis, e.stepLimit, e.onsetCount, e.releaseCount,
    flagByte e.onsetFactor.isSome ||| (flagByte e.releaseFactor.isSome <<< 1),
    factorByte e.onsetFactor, factorByte e.releaseFactor⟩

/-- Channel state, run count, previous value, last seen sequence (R181, READ-ENTRY). -/
def Live.bytes (l : Live) : List Byte :=
  [l.state.byte, byteOf l.run] ++ optionalHalf l.previous ++ optionalByte l.lastSeen

/-! ### Outbound frames (R177, R179) -/

/-- First-cause presence byte (R179). Bits 4 to 7, which no rule names, are sent as 0: the model's choice
(notes/assumptions/18.md). -/
def Cause.presence (c : Cause) : Byte :=
  flagByte c.sequence.isSome ||| (flagByte c.timestamp.isSome <<< 1) ||| (flagByte c.channel.isSome <<< 2) |||
    (flagByte c.value.isSome <<< 3)

/-- First-cause presence byte and the four first-cause fields; an absent field holds 0 (R178, R179). -/
def Cause.bytes (c : Cause) : List Byte :=
  c.presence :: c.sequence.getD 0 :: wordBytes (c.timestamp.getD 0) ++
    byteOf ((c.channel.map (·.val)).getD 0) :: halfBytes (c.value.getD 0)

def Report.bytes (r : Report) : List Byte :=
  withCheck (Config.kindReport :: halfBytes r.serial ++
    [byteOf r.factor.val, byteOf r.level, byteOf r.depth, byteOf r.count] ++ r.cause.bytes ++
    [nibbleByte r.groupRaised, r.freshness.byte])

/-- An entry of a forwarded frame: channel in bits 0 to 4, substituted mark in bit 7 (R177). -/
def OutputSample.bytes (x : OutputSample) : List Byte :=
  (byteOf x.channel.val ||| (flagByte x.substituted <<< 7)) :: halfBytes x.value

def OutputFrame.bytes (f : OutputFrame) : List Byte :=
  withCheck (Config.kindForwarded :: f.sequence :: wordBytes f.timestamp ++
    [flagByte f.gapBefore, byteOf f.samples.length] ++ f.samples.flatMap OutputSample.bytes)

def Response.bytes (r : Response) : List Byte :=
  withCheck ([Config.kindResponse, r.tag, r.command, r.code.byte, byteOf r.payload.length] ++ r.payload)

/-- The frame as the outbound lane carries it, its check included (R176). -/
def OutFrame.bytes : OutFrame → List Byte
  | .report r => r.bytes
  | .response r => r.bytes
  | .sample f => f.bytes

/-- Frame in transmission: 0 none, 1 REPORT, 2 RESPONSE, 3 SAMPLE (R178). -/
def transmissionByte : Option OutFrame → Byte
  | none => 0
  | some (.report _) => 1
  | some (.response _) => 2
  | some (.sample _) => 3

/-! ### Payload items (R181) -/

/-- The occasion of a COMMIT-DONE (R70). -/
inductive Occasion where
  | command
  | frame
  | stale
  deriving DecidableEq, Repr

def Occasion.byte : Occasion → Byte
  | .command => 0
  | .frame => 1
  | .stale => 2

/-- COMMIT-DONE: occasion, first sequence (optional), changed channels (R70). -/
def commitDonePayload (occasion : Occasion) (first : Option Byte) (changed : Nat) : List Byte :=
  [occasion.byte] ++ optionalByte first ++ [byteOf changed]

/-- An optional current substitution: presence, form, value (R181). -/
def currentBytes : Option Substitution → List Byte
  | none => [0, 0, 0, 0]
  | some (.force v) => [1, 0] ++ halfBytes v
  | some (.hold v) => [1, 1] ++ halfBytes v

/-- An optional next change: presence, kind, value; HOLD and REMOVE carry no value, which is sent as 0 (R178, R181). -/
def nextBytes : Option Change → List Byte
  | none => [0, 0, 0, 0]
  | some (.force v) => [1, 0] ++ halfBytes v
  | some .hold => [1, 1, 0, 0]
  | some .remove => [1, 2, 0, 0]

/-- Channel, current, next: one item of READ-SUBSTITUTIONS (R181). -/
def SubstitutionEntry.bytes (e : SubstitutionEntry) : List Byte :=
  [byteOf e.channel.val] ++ currentBytes e.current ++ nextBytes e.next

def Phase.byte : Phase → Byte
  | .waiting => 0
  | .collecting _ => 1

end Sys2Proof.Machine
end

