-- ==== Sys2Proof/Machine/Flags.lean ====
section
/-! DEFINITION. The predicates of the part: the four derived limits and the onset and release predicates of
a sample (R45 to R48), the comparison of entries (R34), the effective level, candidacy and report order of a
factor (R86, R87), and the conditions under which each block acts of its own accord
(R39, R99, R150, R163). -/

namespace Sys2Proof.Machine

/-! ### Condition predicates -/

/-- Held at the nearer end of the sample range (R45). -/
def saturate (x : Int) : Int := max (-32768) (min 32767 x)

def Entry.highReleaseLimit (e : Entry) : Int := saturate (e.high.toInt - e.hysteresis.toNat)
def Entry.lowReleaseLimit (e : Entry) : Int := saturate (e.low.toInt + e.hysteresis.toNat)
def Entry.lowOuterLimit (e : Entry) : Int := saturate (e.low.toInt - e.hysteresis.toNat)
def Entry.highOuterLimit (e : Entry) : Int := saturate (e.high.toInt + e.hysteresis.toNat)

/-- The exact absolute difference of two sample values, 0 to 65535 (R25). -/
def difference (a b : Half) : Nat := (a.toInt - b.toInt).natAbs

/-- The onset predicate of an entry, with the channel's previous value (R46 to R48). -/
def Entry.onsetQualifies (e : Entry) (previous : Option Half) (value : Half) : Bool :=
  match e.mode with
  | .off => false
  | .above => e.high.toInt < value.toInt
  | .below => value.toInt < e.low.toInt
  | .outside => e.high.toInt < value.toInt ∨ value.toInt < e.low.toInt
  | .inside => e.low.toInt ≤ value.toInt ∧ value.toInt ≤ e.high.toInt
  | .step =>
    match previous with
    | none => false
    | some p => e.stepLimit.toNat < difference value p

/-- The release predicate of an entry, with the channel's previous value (R46 to R48). -/
def Entry.releaseQualifies (e : Entry) (previous : Option Half) (value : Half) : Bool :=
  match e.mode with
  | .off => false
  | .above => value.toInt ≤ e.highReleaseLimit
  | .below => e.lowReleaseLimit ≤ value.toInt
  | .outside => e.lowReleaseLimit ≤ value.toInt ∧ value.toInt ≤ e.highReleaseLimit
  | .inside => value.toInt < e.lowOuterLimit ∨ e.highOuterLimit < value.toInt
  | .step =>
    match previous with
    | none => false
    | some p => difference value p ≤ e.stepLimit.toNat

/-! ### Channels -/

/-- The channels in ascending order. -/
def allChannels : List Channel := List.finRange 32

/-- The channel's SHADOW entry differs from its ACTIVE entry in some field (R34). -/
def Ce.differs (ce : Ce) (c : Channel) : Bool := ce.shadow[c] != ce.active[c]

/-- The number of channels whose entries differ, 0 to 32 (R31, R66). -/
def Ce.differing (ce : Ce) : Nat := allChannels.countP ce.differs

/-- The channel is in the record's set (R129). -/
def CaptureRecord.names (r : CaptureRecord) (c : Channel) : Bool := r.channels.getLsbD c.val

/-- Every slot of the record is present (R135). -/
def CaptureRecord.complete (r : CaptureRecord) : Bool :=
  allChannels.all fun c => !r.names c || r.slots[c].isSome

/-- The number of slots present (R137). -/
def CaptureRecord.collected (r : CaptureRecord) : Nat :=
  allChannels.countP fun c => r.names c && r.slots[c].isSome

/-- Frames examined between boundaries: 0 while WAITING, else the limit less the frames remaining (R129). -/
def CaptureRecord.examined (r : CaptureRecord) : Nat :=
  match r.phase with
  | .waiting => 0
  | .collecting remaining => r.limit - remaining

/-- The list holds an entry for the channel whose current substitution is present: the substituted flag of a
capture (R134). -/
def substituted (list : List SubstitutionEntry) (c : Channel) : Bool :=
  list.any fun e => e.channel == c && e.current.isSome

/-! ### Factors -/

/-- The group of a factor (R85). -/
def groupOfFactor (f : FactorNo) : GroupNo := ⟨f.val / 4, by omega⟩

/-- Factor 4g + k of a group (R85). -/
def factorOfGroup (g : GroupNo) (k : Fin 4) : FactorNo := ⟨4 * g.val + k.val, by omega⟩

/-- Effective level: 4 for factor 31, else the level of the factor's group (R86). -/
def Fru.effectiveLevel (fru : Fru) (f : FactorNo) : Nat :=
  if f = Config.linkStale then 4 else fru.groups[groupOfFactor f].level.val

/-- The factor's enable in its group record (R85). -/
def Fru.enabled (fru : Fru) (f : FactorNo) : Bool :=
  fru.groups[groupOfFactor f].enables.getLsbD (f.val % 4)

/-- Raised, enabled, and at an effective level of 1 or more (R87). -/
def Fru.candidate (fru : Fru) (f : FactorNo) : Bool :=
  fru.factors[f].raised && fru.enabled f && (1 ≤ fru.effectiveLevel f : Bool)

/-- The first candidate in report order whose effective level exceeds L: the highest effective level, and
among those the lowest factor number (R87, R99). -/
def Fru.chosen (fru : Fru) : Option FactorNo :=
  [4, 3, 2, 1].findSome? fun v =>
    (List.finRange 32).find? fun f =>
      fru.candidate f && fru.effectiveLevel f == v && (fru.level < v : Bool)

/-- The raised flags of a group's four factors, in factor order (R104). -/
def Fru.groupRaised (fru : Fru) (g : GroupNo) : BitVec 4 :=
  BitVec.ofBoolListLE [fru.factors[factorOfGroup g 0].raised, fru.factors[factorOfGroup g 1].raised,
    fru.factors[factorOfGroup g 2].raised, fru.factors[factorOfGroup g 3].raised]

/-- The number of saved levels (R93). -/
def Fru.depth (fru : Fru) : Nat := fru.saved.length

/-! ### When a block acts -/

/-- The A-link is delivering: LOCKED and FRESH (R63). -/
def Alr.delivering (alr : Alr) : Bool := alr.lock == .locked && alr.freshness == .fresh

/-- The CE is not held: room in the forward queue, or forward mode OFF, or D-link DOWN (R39). -/
def State.ceFree (s : State) : Bool :=
  s.dlt.forwardQueue.length < Config.forwardCapacity || s.ce.forwarding == .off || s.dlt.link == .down

/-- A frame boundary can be taken (R39). -/
def State.boundaryDue (s : State) : Bool := !s.alr.ifq.isEmpty && s.ceFree

/-- The first three conditions of R99: gate OPEN, slot empty, D-link UP. -/
def State.selectionOpen (s : State) : Bool :=
  s.fru.gate == .opened && s.fru.slot.isNone && s.dlt.link == .up

/-- A selection attempt would select (R99). -/
def State.selectionDue (s : State) : Bool := s.selectionOpen && s.fru.chosen.isSome

/-- The first three conditions of R150: UP, no frame in transmission, a credit held. -/
def State.laneFree (s : State) : Bool :=
  s.dlt.link == .up && s.dlt.transmitting.isNone && (1 ≤ s.dlt.credits : Bool)

/-- A start attempt would start a transmission (R150). -/
def State.startDue (s : State) : Bool :=
  s.laneFree && (s.fru.slot.isSome || !s.dlt.responses.isEmpty || !s.dlt.forwardQueue.isEmpty)

/-- The response queue has a free place: entries plus reservations is 5 or less (R156, R163). -/
def Dlt.freePlace (d : Dlt) : Bool := d.responses.length + d.reservations < Config.responseCapacity

/-! ### What stands while PORST is released (R182) -/

/-- The 100 µs time base runs from the release of PORST. -/
def State.timeBaseRuns (s : State) : Bool := s.porst == .released

/-- The A-link line receiver seeks alignment until it reports LOCK-GAINED. DEDUCED: notes/assumptions/8.md. -/
def State.seekingAlignment (s : State) : Bool := s.porst == .released && s.alr.lock == .unlocked

/-- The D-link line interface trains until it reports LINK-UP. DEDUCED: notes/assumptions/8.md. -/
def State.training (s : State) : Bool := s.porst == .released && s.dlt.link == .down

end Sys2Proof.Machine
end

