-- ==== Sys2Proof/Machine/Ops.lean ====
section
/-! DEFINITION. The operations shared by the rows: one update per block, the gate of PORST, responses and
reservations, the execution of a command, a STALE declaration, the application of a commit, the return lane.
The part has no addressed memory and no exception entry: these are its registers' operations. -/

namespace Sys2Proof.Machine

/-! ### One update per block -/

def State.onAlr (f : Alr → Alr) (s : State) : State := { s with alr := f s.alr }
def State.onCe (f : Ce → Ce) (s : State) : State := { s with ce := f s.ce }
def State.onFru (f : Fru → Fru) (s : State) : State := { s with fru := f s.fru }
def State.onDlt (f : Dlt → Dlt) (s : State) : State := { s with dlt := f s.dlt }
def State.onMx (f : Mx → Mx) (s : State) : State := { s with mx := f s.mx }
def State.onHanded (f : Handed → Handed) (s : State) : State := { s with handed := f s.handed }

/-- Every event but those of PORST itself: while PORST is asserted nothing is taken and every item holds its
power-on reset value (R182). DEDUCED: notes/assumptions/4.md. -/
def State.taking (f : State → State) (s : State) : Host.Outcome State Fault Refusal :=
  match s.porst with
  | .asserted => .next s
  | .released => .next (f s)

/-! ### Response queue (R155) -/

/-- Immediate append: entries +1. -/
def Dlt.append (r : Response) (d : Dlt) : Dlt := { d with responses := d.responses ++ [r] }

/-- Reserve: reservations +1. -/
def Dlt.reserve (d : Dlt) : Dlt := { d with reservations := d.reservations + 1 }

/-- Convert, once per response, in order: entries +1 at the tail, reservations −1. -/
def Dlt.convert (rs : List Response) (d : Dlt) : Dlt :=
  { d with responses := d.responses ++ rs, reservations := d.reservations - rs.length }

/-- The immediate response of a command: its tag and command code as received (R164, R165). -/
def State.respond (f : CommandFrame) (code : ResponseCode) (payload : List Byte) (s : State) : State :=
  s.onDlt (Dlt.append ⟨f.tag, f.code, code, payload⟩)

/-- BAD-ARGUMENT carries the arguments as received (R168, R181). -/
def State.badArgument (f : CommandFrame) (s : State) : State := s.respond f .badArgument f.arguments

/-- COMMIT-PENDING carries the tag of the pending commit (R63, R181). -/
def State.commitPending (f : CommandFrame) (p : PendingCommit) (s : State) : State :=
  s.respond f .commitPending [p.tag]

/-- Execution of the command at the head of the command queue (R163): it needs a free place in the response
queue and this frame at the head; the frame is removed at the start (R162). An attempt that finds the queue
empty, or no free place, or another command at the head, executes nothing and changes nothing.
DEDUCED: notes/assumptions/3.md. -/
def State.execute (f : CommandFrame) (act : State → State) (s : State) : State :=
  match s.mx.queue with
  | [] => s
  | head :: rest =>
    if s.dlt.freePlace && head == f then act (s.onMx fun m => { m with queue := rest }) else s

/-! ### Raises and declarations -/

/-- Raises handed by the ALR to the FRU (R19). -/
def State.handAcquisition (rs : List Raise) (s : State) : State :=
  s.onHanded fun h => { h with acquisition := h.acquisition ++ rs }

/-- Raises handed by the CE to the FRU (R43). -/
def State.handCondition (rs : List Raise) (s : State) : State :=
  s.onHanded fun h => { h with condition := h.condition ++ rs }

/-- A STALE declaration at the ALR (R16), effects 1, 2 and 4. -/
def Alr.declareStale (a : Alr) : Alr :=
  { a with
    freshness := .stale
    timer := .stopped
    expected := none
    counters := { a.counters with staleDeclarations := a.counters.staleDeclarations + 1 } }

/-- The link is declared STALE (R16): the ALR's share, the raise of LINK-STALE with no cause, and the
declaration handed to the CE. -/
def State.declareStale (s : State) : State :=
  ((s.onAlr Alr.declareStale).handAcquisition [⟨Config.linkStale, .absent⟩]).onHanded
    fun h => { h with declarations := h.declarations + 1 }

/-! ### The stale timer (R15) -/

/-- The timer started or restarted with the stale timeout, if that is not 0. -/
def Alr.startTimer (a : Alr) : Alr :=
  if a.timeout = 0 then a else { a with timer := .running a.timeout.toNat }

/-- The timer restarted if it is running (R9, R12). -/
def Alr.restartTimer (a : Alr) : Alr :=
  match a.timer with
  | .stopped => a
  | .running _ => { a with timer := .running a.timeout.toNat }

/-- One period of the time base: the remaining count is decreased by 1, and the timer expires when it reaches
0 (R15). While PORST is asserted the time base does not run (R182). -/
def State.period (s : State) : State :=
  if s.timeBaseRuns then
    match s.alr.timer with
    | .stopped => s
    | .running remaining =>
      if remaining ≤ 1 then s.declareStale
      else s.onAlr fun a => { a with timer := .running (remaining - 1) }
  else s

/-! ### Commit (R66, R67) -/

/-- Step 3 for one channel: state CLEAR and run count 0, the other two fields kept (R67). -/
def Live.restart (l : Live) : Live := { l with state := .clear, run := 0 }

/-- The three steps of an application: comparison, copy, live state reset; the record becomes NONE (R66). -/
def Ce.applyCommit (ce : Ce) : Ce :=
  { ce with
    active := ce.shadow
    live := Vector.ofFn fun c => if ce.differs c then (ce.live[c]).restart else ce.live[c]
    commit := none }

/-- A pending commit is applied on an occasion; its deferred COMMIT-DONE fills its reservation unless the
response is suppressed (R68, R69, R70). With the record NONE nothing is done. -/
def State.applyPending (occasion : Occasion) (first : Option Byte) (s : State) : State :=
  match s.ce.commit with
  | none => s
  | some p =>
    let applied := s.onCe Ce.applyCommit
    if p.suppressed then applied
    else applied.onDlt
      (Dlt.convert [⟨p.tag, 4, .commitDone, commitDonePayload occasion first s.ce.differing⟩])

/-! ### Capture completions (R137) -/

/-- One item of a completion per channel of the set: the channel, its presence, and the slot's value,
sequence and substituted flag, 0 when absent (R178, R181). -/
def slotBytes (c : Channel) : Option Collected → List Byte
  | none => [byteOf c.val, 0, 0, 0, 0, 0]
  | some x => [byteOf c.val, 1] ++ halfBytes x.value ++ [x.sequence, flagByte x.substituted]

/-- The completion response of a record, with its frames examined (R137). -/
def CaptureRecord.completion (r : CaptureRecord) (code : ResponseCode) (examined : Nat) : Response :=
  ⟨r.tag, 12, code,
    wordBytes r.channels ++ [byteOf r.limit, byteOf examined, byteOf r.collected] ++
      (allChannels.filter r.names).flatMap fun c => slotBytes c r.slots[c]⟩

/-! ### Clearing (R81) -/

/-- A cleared record has the power-on reset value. -/
def Fru.clear (f : FactorNo) (fru : Fru) : Fru := { fru with factors := fru.factors.set f .reset }

/-! ### Return lane (R148) -/

/-- A credit frame taken by the DLT: its grant is added, capped at 63, or the frame is discarded and counted when
its length is not 4 bytes or its grant is 0 or above 63 (R149, R180). -/
def Dlt.takeCredit (frame : List Byte) (d : Dlt) : Dlt :=
  match frame with
  | [_, grant, _, _] =>
    if 1 ≤ grant.toNat ∧ grant.toNat ≤ Config.creditCap then
      { d with credits := min Config.creditCap (d.credits + grant.toNat) }
    else { d with counters := { d.counters with creditDiscarded := d.counters.creditDiscarded + 1 } }
  | _ => { d with counters := { d.counters with creditDiscarded := d.counters.creditDiscarded + 1 } }

/-- A return-lane frame handed to the MX: dropped, discarded at a full queue, or appended (R161, R162). -/
def Mx.receive (frame : List Byte) (m : Mx) : Mx :=
  match readCommandFrame frame with
  | none => { m with checkFail := m.checkFail + 1 }
  | some f =>
    if m.queue.length < Config.commandCapacity then { m with queue := m.queue ++ [f] }
    else { m with discarded := m.discarded + 1 }

/-- The line interface sorts a frame received on the return lane by its check and kind code (R148). While the
D-link is DOWN no frame is received (R145). -/
def State.receive (frame : List Byte) (s : State) : State :=
  match s.dlt.link with
  | .down => s
  | .up => if isCreditFrame frame then s.onDlt (Dlt.takeCredit frame) else s.onMx (Mx.receive frame)

end Sys2Proof.Machine
end

