-- ==== Sys2Proof/Machine/Acquisition.lean ====
section
/-! DEFINITION. The acquisition link receiver: LOCK_GAINED, LOCK_LOST, ARRIVAL and STALE_TIMER_EXPIRY
(chapter 1, R1 to R20). -/

namespace Sys2Proof.Machine

/-- LOCK-GAINED at the ALR (R2). -/
def Alr.gainLock (a : Alr) : Alr := { a with lock := .locked, expected := none, excuse := 0 }

/-- LOCK-LOST (R3): UNLOCKED, and STALE declared if freshness is FRESH or NEVER; nothing while already UNLOCKED. -/
def State.loseLock (s : State) : State :=
  match s.alr.lock with
  | .unlocked => s
  | .locked =>
    let unlocked := s.onAlr fun a => { a with lock := .unlocked }
    match s.alr.freshness with
    | .stale => unlocked
    | .never | .fresh => unlocked.declareStale

/-- Distance of a good frame ahead of the expected sequence, mod 256; 0 while UNSYNCED (R7). -/
def Alr.distance (a : Alr) (sequence : Byte) : Nat :=
  match a.expected with
  | none => 0
  | some e => (sequence - e).toNat

/-- First cause of a link factor raised by a readable frame (R19). -/
def frameCause (sequence : Byte) (timestamp : Word) : Cause := ⟨some sequence, some timestamp, none, none⟩

/-- CHECK-FAIL (R5, R10). -/
def Alr.takeCheckFail (a : Alr) : Alr :=
  { a with
    excuse := min Config.excuseCap (a.excuse + 1)
    counters := { a.counters with checkFail := a.counters.checkFail + 1 } }

/-- FORMAT-FAIL (R6). -/
def Alr.takeFormatFail (a : Alr) : Alr :=
  { a with counters := { a.counters with formatFail := a.counters.formatFail + 1 } }

/-- LATE (R9). -/
def Alr.takeLate (a : Alr) : Alr :=
  Alr.restartTimer { a with counters := { a.counters with late := a.counters.late + 1 } }

/-- Gap accounting of an unexcused gap: d − e frames are counted missed (R8). -/
def Alr.countMissed (d : Nat) (a : Alr) : Alr :=
  { a with counters := { a.counters with missed := a.counters.missed + BitVec.ofNat 32 (d - a.excuse) } }

/-- Both classes that advance the tracker: expected becomes sequence + 1 and the excuse count 0 (R7). -/
def Alr.advance (sequence : Byte) (a : Alr) : Alr := { a with expected := some (sequence + 1), excuse := 0 }

/-- OVERRUN (R12). -/
def Alr.takeOverrun (sequence : Byte) (a : Alr) : Alr :=
  (Alr.restartTimer { a with counters := { a.counters with overrun := a.counters.overrun + 1 } }).advance sequence

/-- ACCEPTED (R13): appended, counted, FRESH, timer started or restarted. -/
def Alr.takeAccepted (f : Frame) (a : Alr) : Alr :=
  (Alr.startTimer
    { a with
      ifq := a.ifq ++ [f]
      freshness := .fresh
      counters := { a.counters with accepted := a.counters.accepted + 1 } }).advance f.sequence

/-- A good frame that is not LATE, after gap accounting: OVERRUN when the IFQ holds 8 frames, else ACCEPTED
(R4 tests 4 and 5, R8). GAP is raised before OVERRUN (R19). -/
def State.takeInOrder (sequence : Byte) (timestamp : Word) (samples : List Sample) (s : State) : State :=
  let d := s.alr.distance sequence
  let unexcused : Bool := s.alr.excuse < d
  let counted := if unexcused then
      (s.onAlr (Alr.countMissed d)).handAcquisition [⟨Config.gap, frameCause sequence timestamp⟩]
    else s
  if s.alr.ifq.length < Config.ifqCapacity then
    counted.onAlr (Alr.takeAccepted ⟨sequence, timestamp, samples, unexcused⟩)
  else
    (counted.onAlr (Alr.takeOverrun sequence)).handAcquisition [⟨Config.overrun, frameCause sequence timestamp⟩]

/-- An arrival by its class (R4). While UNLOCKED no arrival is delivered. -/
def State.arrive (frame : List Byte) (s : State) : State :=
  match s.alr.lock with
  | .unlocked => s
  | .locked =>
    match readArrival frame with
    | .checkFail => (s.onAlr Alr.takeCheckFail).handAcquisition [⟨Config.linkError, .absent⟩]
    | .formatFail sequence timestamp =>
      (s.onAlr Alr.takeFormatFail).handAcquisition [⟨Config.linkError, frameCause sequence timestamp⟩]
    | .good sequence timestamp samples =>
      if 128 ≤ s.alr.distance sequence then
        (s.onAlr Alr.takeLate).handAcquisition [⟨Config.linkError, frameCause sequence timestamp⟩]
      else s.takeInOrder sequence timestamp samples

/-- The running timer's count reaches 0 (R15, R16): the periods it still had have passed
(notes/assumptions/6.md). A STOPPED timer does not expire. -/
def State.expire (s : State) : State :=
  match s.alr.timer with
  | .stopped => s
  | .running _ => s.declareStale

/-- LOCK_GAINED. -/
def execLockGained (s : State) : Host.Outcome State Fault Refusal := s.taking (State.onAlr Alr.gainLock)

/-- LOCK_LOST. -/
def execLockLost (s : State) : Host.Outcome State Fault Refusal := s.taking State.loseLock

/-- ARRIVAL. -/
def execArrival (frame : List Byte) (s : State) : Host.Outcome State Fault Refusal := s.taking (State.arrive frame)

/-- STALE_TIMER_EXPIRY. -/
def execStaleTimerExpiry (s : State) : Host.Outcome State Fault Refusal := s.taking State.expire

end Sys2Proof.Machine
end

