-- ==== Sys2Proof/Machine/ConditionEngine.lean ====
section
/-! DEFINITION. The condition engine: FRAME_BOUNDARY with its eight stages, and DECLARATION_HANDED_TO_CE
(chapters 3, 4, 7, 8: R39 to R61, R66 to R69, R122 to R125, R133 to R138). -/

namespace Sys2Proof.Machine

/-! ### Stage 2: substitution changes (R122, R123) -/

/-- One entry's next change applied; none when the entry is deleted. HOLD takes the previous value as it stands
before the frame is evaluated; it is present then (R123), and without it the change stays waiting. -/
def SubstitutionEntry.applyNext (live : Vector Live 32) (e : SubstitutionEntry) : Option SubstitutionEntry :=
  match e.next with
  | none => some e
  | some (.force v) => some { e with current := some (.force v), next := none }
  | some .hold =>
    match (live[e.channel]).previous with
    | none => some e
    | some v => some { e with current := some (.hold v), next := none }
  | some .remove => none

def Ce.applyChanges (ce : Ce) : Ce :=
  { ce with substitutions := ce.substitutions.filterMap (SubstitutionEntry.applyNext ce.live) }

/-! ### Stage 3: capture start (R133) -/

def CaptureRecord.start (r : CaptureRecord) : CaptureRecord :=
  match r.phase with
  | .waiting => { r with phase := .collecting r.limit }
  | .collecting _ => r

def Ce.startCaptures (ce : Ce) : Ce := { ce with captures := ce.captures.map CaptureRecord.start }

/-! ### Stage 4: evaluation (R44 to R56) -/

/-- The state machine of a channel (R50 to R53): new state, new run count, and the factor the transition names. -/
def Entry.transition (e : Entry) (state : ChannelState) (run : Nat) (onset release : Bool) :
    ChannelState × Nat × Option ConditionFactor :=
  match state with
  | .clear =>
    if onset then
      if e.onsetCount.toNat = 1 then (.active, 0, e.onsetFactor) else (.onset, 1, none)
    else (.clear, 0, none)
  | .onset =>
    if onset then
      if run + 1 = e.onsetCount.toNat then (.active, 0, e.onsetFactor) else (.onset, run + 1, none)
    else (.clear, 0, none)
  | .active =>
    if release then
      if e.releaseCount.toNat = 1 then (.clear, 0, e.releaseFactor) else (.release, 1, none)
    else (.active, 0, none)
  | .release =>
    if release then
      if run + 1 = e.releaseCount.toNat then (.clear, 0, e.releaseFactor) else (.release, run + 1, none)
    else (.active, 0, none)

/-- The transition a sample makes, from the live state it meets (R44). -/
def Entry.judge (e : Entry) (l : Live) (value : Half) : ChannelState × Nat × Option ConditionFactor :=
  e.transition l.state l.run (e.onsetQualifies l.previous value) (e.releaseQualifies l.previous value)

/-- Live state after a sample (R50 to R54). -/
def Entry.after (e : Entry) (l : Live) (value : Half) (sequence : Byte) : Live :=
  ⟨(e.judge l value).1, (e.judge l value).2.1, some value, some sequence⟩

/-- The raise of a condition factor, with all four sub-fields of its cause present (R55). -/
def conditionRaise (f : ConditionFactor) (sequence : Byte) (timestamp : Word) (x : Sample) : Raise :=
  ⟨⟨f.val, by omega⟩, ⟨some sequence, some timestamp, some x.channel, some x.value⟩⟩

/-- One sample judged against the ACTIVE entry of its channel: live state written back, at most one raise (R44). -/
def evaluateSample (active : Bank) (sequence : Byte) (timestamp : Word)
    (acc : Vector Live 32 × List Raise) (x : Sample) : Vector Live 32 × List Raise :=
  let e := active[x.channel]
  let l := acc.1[x.channel]
  (acc.1.set x.channel (e.after l x.value sequence),
    acc.2 ++ ((e.judge l x.value).2.2.map fun f => conditionRaise f sequence timestamp x).toList)

/-- Every entry of the frame in entry order, each on the live state the one before left (R44, R56). -/
def evaluate (active : Bank) (live : Vector Live 32) (f : Frame) : Vector Live 32 × List Raise :=
  f.samples.foldl (evaluateSample active f.sequence f.timestamp) (live, [])

def State.evaluateFrame (f : Frame) (s : State) : State :=
  let result := evaluate s.ce.active s.ce.live f
  (s.onCe fun ce => { ce with live := result.1 }).handCondition result.2

/-! ### Stage 5: capture collection (R134) -/

/-- The received value of the first entry of the frame that names the channel. -/
def Frame.first (f : Frame) (c : Channel) : Option Half :=
  (f.samples.find? fun x => x.channel == c).map (·.value)

/-- A COLLECTING record is offered the frame. -/
def CaptureRecord.collect (list : List SubstitutionEntry) (f : Frame) (r : CaptureRecord) : CaptureRecord :=
  match r.phase with
  | .waiting => r
  | .collecting _ =>
    { r with
      slots := Vector.ofFn fun c =>
        match r.slots[c] with
        | some x => some x
        | none =>
          if r.names c then (f.first c).map fun v => ⟨v, f.sequence, substituted list c⟩ else none }

def Ce.collectCaptures (f : Frame) (ce : Ce) : Ce :=
  { ce with captures := ce.captures.map (CaptureRecord.collect ce.substitutions f) }

/-! ### Stages 6 and 7: output frame and its disposal (R57, R58, R124) -/

/-- The substitution in force for a channel. -/
def inForce (list : List SubstitutionEntry) (c : Channel) : Option Substitution :=
  (list.find? fun e => e.channel == c).bind (·.current)

/-- The value a substitution puts in output frames. -/
def Substitution.output : Substitution → Half
  | .force v => v
  | .hold v => v

def Sample.output (list : List SubstitutionEntry) (x : Sample) : OutputSample :=
  match inForce list x.channel with
  | some sub => ⟨x.channel, sub.output, true⟩
  | none => ⟨x.channel, x.value, false⟩

def Frame.output (list : List SubstitutionEntry) (f : Frame) : OutputFrame :=
  ⟨f.sequence, f.timestamp, f.gapBefore, f.samples.map (Sample.output list)⟩

/-- Disposal by forward mode and D-link state (R58). -/
def State.dispose (o : OutputFrame) (s : State) : State :=
  match s.ce.forwarding, s.dlt.link with
  | .on, .up =>
    (s.onDlt fun d => { d with forwardQueue := d.forwardQueue ++ [o] }).onCe
      fun ce => { ce with forwarded := ce.forwarded + 1 }
  | .on, .down => s.onCe fun ce => { ce with shed := ce.shed + 1 }
  | .off, _ => s

/-! ### Stage 8: capture countdown (R135) -/

/-- A record at stage 8: it stays, or it completes with a response. -/
def CaptureRecord.countdown (r : CaptureRecord) : CaptureRecord ⊕ Response :=
  match r.phase with
  | .waiting => .inl r
  | .collecting remaining =>
    if r.complete then .inr (r.completion .captureComplete (r.limit - remaining + 1))
    else if remaining - 1 = 0 then .inr (r.completion .captureTimeout r.limit)
    else .inl { r with phase := .collecting (remaining - 1) }

/-- Completing records leave the list and their responses are handed over in list order (R135, R137). -/
def State.countCaptures (s : State) : State :=
  (s.onCe fun ce => { ce with captures := ce.captures.filterMap fun r => r.countdown.getLeft? }).onDlt
    (Dlt.convert (s.ce.captures.filterMap fun r => r.countdown.getRight?))

/-! ### The frame boundary (R41, R42) -/

/-- Stages 6 and 7 (R57, R58). -/
def State.outputFrame (f : Frame) (s : State) : State := s.dispose (f.output s.ce.substitutions)

/-- The eight stages for the frame taken, each on the state left by the stage before it (R42). -/
def State.stages (f : Frame) (s : State) : State :=
  ((((((s.applyPending .frame (some f.sequence)).onCe Ce.applyChanges).onCe Ce.startCaptures).evaluateFrame f).onCe
    (Ce.collectCaptures f)).outputFrame f).countCaptures

/-- The CE takes the head of the IFQ when R39 allows; while it is held or the IFQ is empty no boundary is taken. -/
def State.boundary (s : State) : State :=
  match s.alr.ifq with
  | [] => s
  | f :: rest => if s.ceFree then (s.onAlr fun a => { a with ifq := rest }).stages f else s

/-! ### A STALE declaration handed to the CE (R69, R138) -/

/-- Every record completes with CAPTURE-STALE, in list order (R138). -/
def State.staleCaptures (s : State) : State :=
  (s.onDlt (Dlt.convert (s.ce.captures.map fun r => r.completion .captureStale r.examined))).onCe
    fun ce => { ce with captures := [] }

/-- The CE handles one declaration as one operation: commit control first, then the capture list. With none
handed over, nothing is taken. -/
def State.takeDeclaration (s : State) : State :=
  match s.handed.declarations with
  | 0 => s
  | n + 1 => ((s.onHanded fun h => { h with declarations := n }).applyPending .stale none).staleCaptures

/-- FRAME_BOUNDARY. -/
def execFrameBoundary (s : State) : Host.Outcome State Fault Refusal := s.taking State.boundary

/-- DECLARATION_HANDED_TO_CE. -/
def execDeclarationHandedToCe (s : State) : Host.Outcome State Fault Refusal := s.taking State.takeDeclaration

end Sys2Proof.Machine
end

