-- ==== Sys2Proof/Machine/DeliveryLink.lean ====
section
/-! DEFINITION. The delivery link: COMMAND_FRAME, CREDIT_FRAME, TRANSMISSION_START, TRANSMISSION_END, LINK_UP
and LINK_DOWN with every block's share (chapter 9, R112, R141, R169). -/

namespace Sys2Proof.Machine

/-- A transmission start of one frame (R152): a credit used and the frame in transmission. -/
def Dlt.begin (o : OutFrame) (d : Dlt) : Dlt := { d with credits := d.credits - 1, transmitting := some o }

/-- The started counter of the frame's kind (R152 step 4). -/
def EgressCounters.countStart (o : OutFrame) (c : EgressCounters) : EgressCounters :=
  match o with
  | .report _ => { c with reportStarted := c.reportStarted + 1 }
  | .response _ => { c with responseStarted := c.responseStarted + 1 }
  | .sample _ => { c with sampleStarted := c.sampleStarted + 1 }

/-- Steps 2 to 4 of R152. -/
def State.startFrame (o : OutFrame) (s : State) : State :=
  s.onDlt fun d => { d.begin o with counters := d.counters.countStart o }

/-- A start attempt (R150, R152): slot first, then the response queue, then the forward queue. When a condition
fails it changes nothing. -/
def State.start (s : State) : State :=
  if s.laneFree then
    match s.fru.slot with
    | some r => (s.onFru fun fru => { fru with slot := none }).startFrame (.report r)
    | none =>
      match s.dlt.responses with
      | r :: rest => (s.onDlt fun d => { d with responses := rest }).startFrame (.response r)
      | [] =>
        match s.dlt.forwardQueue with
        | f :: rest => (s.onDlt fun d => { d with forwardQueue := rest }).startFrame (.sample f)
        | [] => s
  else s

/-- Transmission end (R153): the frame in transmission becomes none; no credit returns. -/
def Dlt.finish (d : Dlt) : Dlt := { d with transmitting := none }

/-- LINK-UP (R145): reported only while DOWN; nothing but the link state changes. -/
def Dlt.raiseLink (d : Dlt) : Dlt := { d with link := .up }

/-- The DLT's share of a delivery link reset (R146). -/
def Dlt.dropLink (d : Dlt) : Dlt :=
  { d with
    link := .down
    credits := 0
    transmitting := none
    forwardQueue := []
    responses := []
    reservations := 0
    counters :=
      match d.transmitting with
      | none => d.counters
      | some _ => { d.counters with abandoned := d.counters.abandoned + 1 } }

/-- The CE's share: the flush count is added to shed (R60), a pending commit's response is suppressed (R72),
every capture record is removed (R141). -/
def Ce.dropLink (flushed : Nat) (ce : Ce) : Ce :=
  { ce with
    shed := ce.shed + BitVec.ofNat 32 flushed
    commit := ce.commit.map fun p => { p with suppressed := true }
    captures := [] }

/-- The FRU's share: slot empty, level stack empty, gate CLOSED (R112). -/
def Fru.dropLink (fru : Fru) : Fru := { fru with slot := none, saved := [], level := 0, gate := .closed }

/-- The MX's share: the command queue is flushed and counted (R169). -/
def Mx.dropLink (m : Mx) : Mx :=
  { m with queue := [], discarded := m.discarded + BitVec.ofNat 32 m.queue.length }

/-- The delivery link reset, one event (R146, R147). The ALR's state does not change (R1). -/
def State.linkReset (s : State) : State :=
  (((s.onCe (Ce.dropLink s.dlt.forwardQueue.length)).onFru Fru.dropLink).onMx Mx.dropLink).onDlt Dlt.dropLink

/-- COMMAND_FRAME. -/
def execCommandFrame (frame : List Byte) (s : State) : Host.Outcome State Fault Refusal :=
  s.taking (State.receive frame)

/-- CREDIT_FRAME. -/
def execCreditFrame (frame : List Byte) (s : State) : Host.Outcome State Fault Refusal :=
  s.taking (State.receive frame)

/-- TRANSMISSION_START. -/
def execTransmissionStart (s : State) : Host.Outcome State Fault Refusal := s.taking State.start

/-- TRANSMISSION_END. With no frame in transmission there is no end to take, and nothing changes. -/
def execTransmissionEnd (s : State) : Host.Outcome State Fault Refusal := s.taking (State.onDlt Dlt.finish)

/-- LINK_UP. -/
def execLinkUp (s : State) : Host.Outcome State Fault Refusal := s.taking (State.onDlt Dlt.raiseLink)

/-- LINK_DOWN. -/
def execLinkDown (s : State) : Host.Outcome State Fault Refusal := s.taking State.linkReset

end Sys2Proof.Machine
end

