-- ==== Sys2Proof/Machine/FactorCommands.lean ====
section
/-! DEFINITION. Commands on the factor and report unit: SET_GROUP, READ_GROUP, CLEAR_FACTORS, RETURN,
REPORT_GATE (chapters 5 and 6: R82, R83, R89, R91, R97, R106 to R108). The selection attempt that follows one of
them is an event of its own (R101). -/

namespace Sys2Proof.Machine

/-- SET-GROUP (R89): level and four enables together. -/
def setGroup (f : CommandFrame) (group level enables : Byte) (s : State) : State :=
  match groupOf group, levelOf level, nibbleOf enables with
  | some g, some l, some e =>
    (s.onFru fun fru => { fru with groups := fru.groups.set g ⟨l, e⟩ }).respond f .done [group, level, enables]
  | _, _, _ => s.badArgument f

/-- One factor of a READ-GROUP response: number, effective level, raised, raise count, first cause (R91, R181). -/
def Fru.factorBytes (fru : Fru) (f : FactorNo) : List Byte :=
  [byteOf f.val, byteOf (fru.effectiveLevel f), flagByte (fru.factors[f]).raised, byteOf (fru.factors[f]).count] ++
    (fru.factors[f]).cause.bytes

/-- READ-GROUP (R91). -/
def readGroup (f : CommandFrame) (group : Byte) (s : State) : State :=
  match groupOf group with
  | some g =>
    let record := s.fru.groups[g]
    s.respond f .done ([group, byteOf record.level.val, nibbleByte record.enables] ++
      (List.finRange 4).flatMap fun k => s.fru.factorBytes (factorOfGroup g k))
  | none => s.badArgument f

/-- The factors of a group that a mask names, in factor order (R82). -/
def maskedFactors (g : GroupNo) (mask : BitVec 4) : List FactorNo :=
  ((List.finRange 4).filter fun k => mask.getLsbD k.val).map (factorOfGroup g)

/-- The count each factor of the group held, 0 where the mask does not name it (R82). -/
def Fru.maskedCounts (fru : Fru) (g : GroupNo) (mask : BitVec 4) : List Byte :=
  (List.finRange 4).map fun k =>
    if mask.getLsbD k.val then byteOf (fru.factors[factorOfGroup g k]).count else 0

/-- CLEAR-FACTORS (R82): counts as they stood before the execution. -/
def clearFactors (f : CommandFrame) (group mask : Byte) (s : State) : State :=
  match groupOf group, nibbleOf mask with
  | some g, some m =>
    (s.onFru fun fru => (maskedFactors g m).foldl (fun fru x => fru.clear x) fru).respond f .done
      ([group, mask] ++ s.fru.maskedCounts g m)
  | _, _ => s.badArgument f

/-- The pop of R94: the top saved level becomes L. -/
def Fru.pop (fru : Fru) : Fru :=
  { fru with level := fru.saved.getLast?.getD fru.level, saved := fru.saved.dropLast }

/-- An accepted RETURN at the FRU (R107 steps 1 and 2). -/
def Fru.accept (c : Option FactorNo) (fru : Fru) : Fru :=
  match c with
  | none => fru.pop
  | some x => (fru.clear x).pop

/-- Factor (optional) and count cleared: 0 without a factor (R178, R181; notes/assumptions/10.md). -/
def Fru.clearedBytes (fru : Fru) (c : Option FactorNo) : List Byte :=
  match c with
  | none => [0, 0, 0]
  | some x => [1, byteOf x.val, byteOf (fru.factors[x]).count]

/-- An accepted RETURN with its DONE (R107). -/
def acceptReturn (f : CommandFrame) (c : Option FactorNo) (s : State) : State :=
  let popped := s.onFru (Fru.accept c)
  popped.respond f .done
    ([byteOf popped.fru.depth, byteOf popped.fru.level] ++ s.fru.clearedBytes c)

/-- Checks 3 to 5 of R106, then R107; the refusals of R108. -/
def returnChecked (f : CommandFrame) (depth : Nat) (c : Option FactorNo) (s : State) : State :=
  if s.fru.depth = 0 then s.respond f .notInService [byteOf s.fru.depth, byteOf s.fru.level]
  else
    match s.fru.slot with
    | some r =>
      s.respond f .staleReturn ([0, byteOf s.fru.depth, byteOf s.fru.level] ++ optionalHalf (some r.serial))
    | none =>
      if depth ≠ s.fru.depth then
        s.respond f .staleReturn ([1, byteOf s.fru.depth, byteOf s.fru.level] ++ optionalHalf none)
      else acceptReturn f c s

/-- RETURN (R106): only bit 0 of the presence byte is read (R180). -/
def returnLevel (f : CommandFrame) (depth presence factor : Byte) (s : State) : State :=
  if depth.toNat < 1 ∨ 4 < depth.toNat then s.badArgument f
  else if presence.getLsbD 0 then
    match factorOf factor with
    | none => s.badArgument f
    | some x => returnChecked f depth.toNat (some x) s
  else returnChecked f depth.toNat none s

/-- REPORT-GATE (R97). -/
def reportGate (f : CommandFrame) (gate : Byte) (s : State) : State :=
  match Gate.ofByte gate with
  | none => s.badArgument f
  | some g =>
    (s.onFru fun fru => { fru with gate := g }).respond f .done
      [gate, byteOf s.fru.level, byteOf s.fru.depth]

/-- SET_GROUP. -/
def execSetGroup (tag group level enables : Byte) (s : State) : Host.Outcome State Fault Refusal :=
  let f : CommandFrame := ⟨tag, 5, [group, level, enables]⟩
  s.taking (State.execute f (setGroup f group level enables))

/-- READ_GROUP. -/
def execReadGroup (tag group : Byte) (s : State) : Host.Outcome State Fault Refusal :=
  let f : CommandFrame := ⟨tag, 6, [group]⟩
  s.taking (State.execute f (readGroup f group))

/-- CLEAR_FACTORS. -/
def execClearFactors (tag group mask : Byte) (s : State) : Host.Outcome State Fault Refusal :=
  let f : CommandFrame := ⟨tag, 7, [group, mask]⟩
  s.taking (State.execute f (clearFactors f group mask))

/-- RETURN. -/
def execReturnLevel (tag depth presence factor : Byte) (s : State) : Host.Outcome State Fault Refusal :=
  let f : CommandFrame := ⟨tag, 8, [depth, presence, factor]⟩
  s.taking (State.execute f (returnLevel f depth presence factor))

/-- REPORT_GATE. -/
def execReportGate (tag gate : Byte) (s : State) : Host.Outcome State Fault Refusal :=
  let f : CommandFrame := ⟨tag, 9, [gate]⟩
  s.taking (State.execute f (reportGate f gate))

end Sys2Proof.Machine
end

