-- ==== Sys2Proof/Machine/Power.lean ====
section
/-! DEFINITION. Power-on reset: PORST_ASSERT and PORST_RELEASE (R182). -/

namespace Sys2Proof.Machine

/-- Every item of state at its power-on reset value, with PORST asserted. The events still waiting are not the
part's. -/
def State.powerOnReset (s : State) : State :=
  { State.reset with porst := .asserted, pending := s.pending }

/-- PORST_ASSERT (R182): every item takes its power-on reset value at once; frames in transmission are
abandoned uncounted, no deferred response is built, no factor raised, no declaration taken. -/
def execPorstAssert (s : State) : Host.Outcome State Fault Refusal := .next s.powerOnReset

/-- PORST_RELEASE (R182): the time base starts, alignment is sought and the D-link trains; every item stands at
its power-on reset value, as the assertion left it. -/
def execPorstRelease (s : State) : Host.Outcome State Fault Refusal := .next { s with porst := .released }

end Sys2Proof.Machine
end

