-- ==== Sys2Proof/Machine/Reports.lean ====
section
/-! DEFINITION. The factor and report unit's own events: FACTOR_RAISE and SELECTION_ATTEMPT
(chapters 5 and 6: R79, R80, R99, R100, R104). -/

namespace Sys2Proof.Machine

/-- A raise acting on a factor record (R79). -/
def FactorRecord.raise (cause : Cause) (r : FactorRecord) : FactorRecord :=
  if r.raised then { r with count := min Config.raiseCap (r.count + 1) } else ⟨true, 1, cause⟩

/-- A raise taken by the FRU (R79): it acts on the named record alone. -/
def Fru.raise (x : Raise) (fru : Fru) : Fru :=
  { fru with factors := fru.factors.set x.factor ((fru.factors[x.factor]).raise x.cause) }

/-- The FRU takes the next raise of one source, in the order that source handed them over (R80). With none
handed over there is no raise to take. -/
def State.takeRaise (source : RaiseSource) (s : State) : State :=
  match source with
  | .acquisitionLink =>
    match s.handed.acquisition with
    | [] => s
    | x :: rest => (s.onHanded fun h => { h with acquisition := rest }).onFru (Fru.raise x)
  | .conditionEngine =>
    match s.handed.condition with
    | [] => s
    | x :: rest => (s.onHanded fun h => { h with condition := rest }).onFru (Fru.raise x)

/-- The five steps of a selection that chooses factor f (R100), the report built from the state as it stands
after step 3 (R104). -/
def Fru.select (f : FactorNo) (freshness : Freshness) (fru : Fru) : Fru :=
  { fru with
    saved := fru.saved ++ [fru.level]
    level := fru.effectiveLevel f
    serial := fru.serial + 1
    slot := some
      ⟨fru.serial + 1, f, fru.effectiveLevel f, fru.depth + 1, (fru.factors[f]).count, (fru.factors[f]).cause,
        fru.groupRaised (groupOfFactor f), freshness⟩ }

/-- A selection attempt (R99): when any of the four conditions fails it changes nothing. -/
def State.attempt (s : State) : State :=
  match s.fru.chosen with
  | none => s
  | some f => if s.selectionOpen then s.onFru (Fru.select f s.alr.freshness) else s

/-- FACTOR_RAISE. -/
def execFactorRaise (source : RaiseSource) (s : State) : Host.Outcome State Fault Refusal :=
  s.taking (State.takeRaise source)

/-- SELECTION_ATTEMPT. -/
def execSelectionAttempt (s : State) : Host.Outcome State Fault Refusal := s.taking State.attempt

end Sys2Proof.Machine
end

