-- ==== Sys2Proof/Machine/StatusCommands.lean ====
section
/-! DEFINITION. Commands that touch several blocks, and the unknown one: READ_STATUS, SET_LINK, RESYNC,
UNKNOWN_COMMAND (chapter 10: R11, R18, R59, R167, R171 to R175). -/

namespace Sys2Proof.Machine

/-! ### READ-STATUS (R171, R172, R181) -/

/-- The seven ingress counters in the order of the table of R20. -/
def IngressCounters.bytes (c : IngressCounters) : List Byte :=
  wordBytes c.accepted ++ wordBytes c.checkFail ++ wordBytes c.formatFail ++ wordBytes c.late ++
    wordBytes c.overrun ++ wordBytes c.missed ++ wordBytes c.staleDeclarations

/-- The five egress counters in the order of the table of R158. -/
def EgressCounters.bytes (c : EgressCounters) : List Byte :=
  wordBytes c.sampleStarted ++ wordBytes c.reportStarted ++ wordBytes c.responseStarted ++
    wordBytes c.abandoned ++ wordBytes c.creditDiscarded

def Alr.statusBytes (a : Alr) : List Byte :=
  [a.lock.byte, a.freshness.byte] ++ optionalByte a.expected ++ [byteOf a.excuse] ++ halfBytes a.timeout ++
    [a.timer.byte, byteOf a.ifq.length] ++ a.counters.bytes

/-- Commit state, commit tag (optional), response suppressed (optional) (R75). -/
def commitStatus : Option PendingCommit → List Byte
  | none => [0] ++ optionalByte none ++ optionalByte none
  | some p => [1] ++ optionalByte (some p.tag) ++ optionalByte (some (flagByte p.suppressed))

/-- Frames remaining, absent while WAITING (R142). -/
def Phase.remainingByte : Phase → Option Byte
  | .waiting => none
  | .collecting remaining => some (byteOf remaining)

def CaptureRecord.statusBytes (r : CaptureRecord) : List Byte :=
  [r.tag, r.phase.byte, byteOf r.limit] ++ optionalByte r.phase.remainingByte ++ [byteOf r.collected]

def Ce.statusBytes (ce : Ce) : List Byte :=
  [ce.forwarding.byte] ++ commitStatus ce.commit ++ [byteOf ce.captures.length] ++
    ce.captures.flatMap CaptureRecord.statusBytes ++ wordBytes ce.forwarded ++ wordBytes ce.shed

def Fru.statusBytes (fru : Fru) : List Byte :=
  [fru.gate.byte, byteOf fru.level, byteOf fru.depth] ++ fru.saved.map byteOf ++
    optionalHalf (fru.slot.map (·.serial)) ++ halfBytes fru.serial

def Dlt.statusBytes (d : Dlt) : List Byte :=
  [d.link.byte, byteOf d.credits, transmissionByte d.transmitting, byteOf d.forwardQueue.length,
    byteOf d.responses.length, byteOf d.reservations] ++ d.counters.bytes

def Mx.statusBytes (m : Mx) : List Byte :=
  [byteOf m.queue.length] ++ wordBytes m.checkFail ++ wordBytes m.discarded

/-- The items of R172 in its order. -/
def State.statusBytes (s : State) : List Byte :=
  s.alr.statusBytes ++ s.ce.statusBytes ++ s.fru.statusBytes ++ s.dlt.statusBytes ++ s.mx.statusBytes

/-- The sixteen counters set to 0 (R173). -/
def State.clearCounters (s : State) : State :=
  (((s.onAlr fun a => { a with counters := ⟨0, 0, 0, 0, 0, 0, 0⟩ }).onCe
    fun ce => { ce with forwarded := 0, shed := 0 }).onDlt
      fun d => { d with counters := ⟨0, 0, 0, 0, 0⟩ }).onMx
        fun m => { m with checkFail := 0, discarded := 0 }

/-- READ-STATUS (R171, R173): the response is built before the counters are cleared. -/
def readStatus (f : CommandFrame) (clearFlag : Byte) (s : State) : State :=
  match clearFlag.toNat with
  | 0 => s.respond f .done s.statusBytes
  | 1 => s.clearCounters.respond f .done s.statusBytes
  | _ => s.badArgument f

/-! ### SET-LINK and RESYNC -/

/-- SET-LINK at the ALR (R18): while FRESH the timer is restarted with the new value, or stopped by 0. -/
def Alr.setTimeout (t : Half) (a : Alr) : Alr :=
  match a.freshness with
  | .fresh => { a with timeout := t, timer := if t = 0 then .stopped else .running t.toNat }
  | .never | .stale => { a with timeout := t }

/-- SET-LINK (R174): both in one execution. -/
def setLink (f : CommandFrame) (timeout : Half) (forwarding : Byte) (s : State) : State :=
  match ForwardMode.ofByte forwarding with
  | none => s.badArgument f
  | some mode =>
    let set := (s.onAlr (Alr.setTimeout timeout)).onCe fun ce => { ce with forwarding := mode }
    set.respond f .done
      (halfBytes timeout ++ [mode.byte, set.alr.freshness.byte, set.alr.timer.byte])

/-- RESYNC (R11, R175): the payload carries the tracker as it stood before. -/
def resync (f : CommandFrame) (s : State) : State :=
  (s.onAlr fun a => { a with expected := none, excuse := 0 }).respond f .done
    (optionalByte s.alr.expected ++ [byteOf s.alr.excuse])

/-! ### UNKNOWN-COMMAND (R167) -/

/-- UNKNOWN-COMMAND with an empty payload, whatever the arguments (R167). -/
def unknownCommand (f : CommandFrame) (s : State) : State := s.respond f .unknownCommand []

/-- READ_STATUS. -/
def execReadStatus (tag clearFlag : Byte) (s : State) : Host.Outcome State Fault Refusal :=
  let f : CommandFrame := ⟨tag, 14, [clearFlag]⟩
  s.taking (State.execute f (readStatus f clearFlag))

/-- SET_LINK. -/
def execSetLink (tag : Byte) (timeout : Half) (forwarding : Byte) (s : State) :
    Host.Outcome State Fault Refusal :=
  let f : CommandFrame := ⟨tag, 15, halfBytes timeout ++ [forwarding]⟩
  s.taking (State.execute f (setLink f timeout forwarding))

/-- RESYNC. -/
def execResync (tag : Byte) (s : State) : Host.Outcome State Fault Refusal :=
  let f : CommandFrame := ⟨tag, 16, []⟩
  s.taking (State.execute f (resync f))

/-- UNKNOWN_COMMAND: its code is none of the sixteen; a row with a defined code names no such execution. -/
def execUnknownCommand (tag code : Byte) (arguments : List Byte) (s : State) :
    Host.Outcome State Fault Refusal :=
  let f : CommandFrame := ⟨tag, code, arguments⟩
  match argumentLength code with
  | none => s.taking (State.execute f (unknownCommand f))
  | some _ => s.taking id

end Sys2Proof.Machine
end

