-- ==== Sys2Proof/Machine/StreamCommands.lean ====
section
/-! DEFINITION. Commands on the substitution list and the capture list: SUBSTITUTE, READ_SUBSTITUTIONS,
CAPTURE, CANCEL_CAPTURE (chapters 7 and 8: R117 to R121, R127, R131, R132, R140). -/

namespace Sys2Proof.Machine

/-- The form of a SUBSTITUTE (R117). -/
inductive Form where
  | force
  | hold
  | release
  deriving DecidableEq, Repr

/-- 0 FORCE, 1 HOLD, 2 RELEASE (R178). -/
def Form.ofByte (b : Byte) : Option Form :=
  match b.toNat with
  | 0 => some .force
  | 1 => some .hold
  | 2 => some .release
  | _ => none

/-- The next change a form asks for; the value is read for FORCE alone (R118, R120, R180). -/
def Form.change (form : Form) (value : Half) : Change :=
  match form with
  | .force => .force value
  | .hold => .hold
  | .release => .remove

/-- The channel has an entry in the list (R117). -/
def Ce.listed (ce : Ce) (c : Channel) : Bool := ce.substitutions.any fun e => e.channel == c

/-- The channel's entry takes a next change and keeps its place and its current substitution (R119, R120). -/
def Ce.setNext (c : Channel) (change : Change) (ce : Ce) : Ce :=
  { ce with
    substitutions := ce.substitutions.map fun e => if e.channel == c then { e with next := some change } else e }

/-- A new entry at the tail (R118). -/
def Ce.appendSubstitution (c : Channel) (change : Change) (ce : Ce) : Ce :=
  { ce with substitutions := ce.substitutions ++ [⟨c, none, some change⟩] }

/-- The outcome of a SUBSTITUTE (R121). -/
inductive SubstituteOutcome where
  | appended
  | changeSet
  | removeSet
  | notListed
  deriving DecidableEq, Repr

def SubstituteOutcome.byte : SubstituteOutcome → Byte
  | .appended => 0
  | .changeSet => 1
  | .removeSet => 2
  | .notListed => 3

/-- Entry presence, current and next as they stand after the execution; all 0 when no entry is carried
(R121, R178; notes/assumptions/10.md). -/
def entryItem : Option SubstitutionEntry → List Byte
  | none => [0] ++ currentBytes none ++ nextBytes none
  | some e => [1] ++ currentBytes e.current ++ nextBytes e.next

/-- The DONE of SUBSTITUTE, from the list as the execution leaves it (R121, R181). -/
def substituteDone (f : CommandFrame) (c : Channel) (outcome : SubstituteOutcome) (s : State) : State :=
  s.respond f .done (f.arguments ++ [outcome.byte] ++
    entryItem (s.ce.substitutions.find? fun e => e.channel == c) ++ [byteOf s.ce.substitutions.length])

/-- The number of entries whose next change is REMOVE (R121). -/
def Ce.removing (ce : Ce) : Nat := ce.substitutions.countP fun e => e.next == some .remove

/-- SUBSTITUTE after checks 1 and 2 (R117 to R120). -/
def substituteChecked (f : CommandFrame) (c : Channel) (form : Form) (value : Half) (s : State) : State :=
  let change := form.change value
  match form with
  | .release =>
    if s.ce.listed c then substituteDone f c .removeSet (s.onCe (Ce.setNext c change))
    else substituteDone f c .notListed s
  | .force | .hold =>
    if form = .hold ∧ (s.ce.live[c]).previous = none then s.respond f .noValue [byteOf c.val]
    else if s.ce.listed c then substituteDone f c .changeSet (s.onCe (Ce.setNext c change))
    else if s.ce.substitutions.length < Config.substitutionCapacity then
      substituteDone f c .appended (s.onCe (Ce.appendSubstitution c change))
    else s.respond f .listFull [byteOf c.val, byteOf s.ce.substitutions.length, byteOf s.ce.removing]

/-- SUBSTITUTE (R117). -/
def substitute (f : CommandFrame) (channel form : Byte) (value : Half) (s : State) : State :=
  match channelOf channel, Form.ofByte form with
  | some c, some fm => substituteChecked f c fm value s
  | _, _ => s.badArgument f

/-- READ-SUBSTITUTIONS (R127). -/
def readSubstitutions (f : CommandFrame) (s : State) : State :=
  s.respond f .done
    (byteOf s.ce.substitutions.length :: s.ce.substitutions.flatMap SubstitutionEntry.bytes)

/-- A record as a CAPTURE makes it (R132). -/
def CaptureRecord.accepted (tag : Byte) (set : Word) (limit : Nat) : CaptureRecord :=
  ⟨tag, set, limit, .waiting, Vector.replicate 32 none⟩

/-- CAPTURE (R131, R132). -/
def capture (f : CommandFrame) (set : Word) (limit : Byte) (s : State) : State :=
  if set = 0 then s.badArgument f
  else if limit.toNat = 0 ∨ 64 < limit.toNat then s.badArgument f
  else
    match s.ce.captures.find? fun r => r.tag == f.tag with
    | some r => s.respond f .tagInUse [f.tag, r.phase.byte, byteOf r.examined]
    | none =>
      if s.ce.captures.length < Config.captureCapacity then
        (s.onCe fun ce => { ce with captures := ce.captures ++ [.accepted f.tag set limit.toNat] }).onDlt Dlt.reserve
      else
        s.respond f .captureBusy (byteOf s.ce.captures.length :: s.ce.captures.map (·.tag))

/-- CANCEL-CAPTURE (R140): the completion of the record, then the command's own DONE. -/
def cancelCapture (f : CommandFrame) (captureTag : Byte) (s : State) : State :=
  match s.ce.captures.find? fun r => r.tag == captureTag with
  | none => s.respond f .noSuchCapture [captureTag]
  | some r =>
    ((s.onCe fun ce => { ce with captures := ce.captures.eraseP fun x => x.tag == captureTag }).onDlt
      (Dlt.convert [r.completion .captureCancelled r.examined])).respond f .done
        [captureTag, r.phase.byte, byteOf r.examined]

/-- SUBSTITUTE. -/
def execSubstitute (tag channel form : Byte) (value : Half) (s : State) : Host.Outcome State Fault Refusal :=
  let f : CommandFrame := ⟨tag, 10, channel :: form :: halfBytes value⟩
  s.taking (State.execute f (substitute f channel form value))

/-- READ_SUBSTITUTIONS. -/
def execReadSubstitutions (tag : Byte) (s : State) : Host.Outcome State Fault Refusal :=
  let f : CommandFrame := ⟨tag, 11, []⟩
  s.taking (State.execute f (readSubstitutions f))

/-- CAPTURE. -/
def execCapture (tag : Byte) (set : Word) (limit : Byte) (s : State) : Host.Outcome State Fault Refusal :=
  let f : CommandFrame := ⟨tag, 12, wordBytes set ++ [limit]⟩
  s.taking (State.execute f (capture f set limit))

/-- CANCEL_CAPTURE. -/
def execCancelCapture (tag captureTag : Byte) (s : State) : Host.Outcome State Fault Refusal :=
  let f : CommandFrame := ⟨tag, 13, [captureTag]⟩
  s.taking (State.execute f (cancelCapture f captureTag))

end Sys2Proof.Machine
end

