-- ==== Sys2Proof/Machine/TableCommands.lean ====
section
/-! DEFINITION. Commands on the channel condition table: READ_ENTRY, WRITE_ENTRY, LOAD_SHADOW, COMMIT
(chapters 2 and 4: R28 to R33, R63 to R65). -/

namespace Sys2Proof.Machine

/-- The bank a bank argument names: 0 ACTIVE, 1 SHADOW (R33, R178). -/
def Ce.bank (ce : Ce) (b : Byte) : Option Bank :=
  match b.toNat with
  | 0 => some ce.active
  | 1 => some ce.shadow
  | _ => none

/-- READ-ENTRY (R33). -/
def readEntry (f : CommandFrame) (channel bank : Byte) (s : State) : State :=
  match channelOf channel, s.ce.bank bank with
  | some c, some entries =>
    s.respond f .done ([channel, bank] ++ (entries[c]).bytes ++ (s.ce.live[c]).bytes)
  | _, _ => s.badArgument f

/-- WRITE-ENTRY (R28 to R30): argument check, COMMIT-PENDING, entry checks, then the write to SHADOW. -/
def writeEntry (f : CommandFrame) (channel : Byte) (args : EntryArgs) (s : State) : State :=
  match channelOf channel with
  | none => s.badArgument f
  | some c =>
    match s.ce.commit with
    | some p => s.commitPending f p
    | none =>
      match EntryArgs.failedCheck args with
      | some check => s.respond f .badEntry [channel, byteOf check]
      | none => (s.onCe fun ce => { ce with shadow := ce.shadow.set c (EntryArgs.entry args) }).respond f .done [channel]

/-- LOAD-SHADOW (R31). -/
def loadShadow (f : CommandFrame) (s : State) : State :=
  match s.ce.commit with
  | some p => s.commitPending f p
  | none => (s.onCe fun ce => { ce with shadow := ce.active }).respond f .done [byteOf s.ce.differing]

/-- COMMIT (R63): refused while PENDING; at once when the A-link is not delivering (R64); else pending with a
reservation and no immediate response (R65). -/
def commitBanks (f : CommandFrame) (s : State) : State :=
  match s.ce.commit with
  | some p => s.commitPending f p
  | none =>
    if s.alr.delivering then
      (s.onCe fun ce => { ce with commit := some ⟨f.tag, false⟩ }).onDlt Dlt.reserve
    else
      (s.onCe Ce.applyCommit).respond f .commitDone (commitDonePayload .command none s.ce.differing)

/-- READ_ENTRY. -/
def execReadEntry (tag channel bank : Byte) (s : State) : Host.Outcome State Fault Refusal :=
  let f : CommandFrame := ⟨tag, 1, [channel, bank]⟩
  s.taking (State.execute f (readEntry f channel bank))

/-- WRITE_ENTRY. -/
def execWriteEntry (tag channel : Byte) (entry : EntryArgs) (s : State) : Host.Outcome State Fault Refusal :=
  let f : CommandFrame := ⟨tag, 2, channel :: EntryArgs.bytes entry⟩
  s.taking (State.execute f (writeEntry f channel entry))

/-- LOAD_SHADOW. -/
def execLoadShadow (tag : Byte) (s : State) : Host.Outcome State Fault Refusal :=
  let f : CommandFrame := ⟨tag, 3, []⟩
  s.taking (State.execute f (loadShadow f))

/-- COMMIT. -/
def execCommit (tag : Byte) (s : State) : Host.Outcome State Fault Refusal :=
  let f : CommandFrame := ⟨tag, 4, []⟩
  s.taking (State.execute f (commitBanks f))

end Sys2Proof.Machine
end

