-- ==== Sys2Proof/Machine/Dispatch.lean ====
section
/-! DEFINITION. exec: one arm per row of the table. -/

namespace Sys2Proof.Machine

def exec (i : Instr) (s : State) : Host.Outcome State Fault Refusal :=
  match i with
  | .porstAssert => Sys2Proof.Machine.execPorstAssert s
  | .porstRelease => Sys2Proof.Machine.execPorstRelease s
  | .lockGained => Sys2Proof.Machine.execLockGained s
  | .lockLost => Sys2Proof.Machine.execLockLost s
  | .arrival frame => Sys2Proof.Machine.execArrival frame s
  | .staleTimerExpiry => Sys2Proof.Machine.execStaleTimerExpiry s
  | .declarationHandedToCe => Sys2Proof.Machine.execDeclarationHandedToCe s
  | .frameBoundary => Sys2Proof.Machine.execFrameBoundary s
  | .factorRaise source => Sys2Proof.Machine.execFactorRaise source s
  | .selectionAttempt => Sys2Proof.Machine.execSelectionAttempt s
  | .commandFrame frame => Sys2Proof.Machine.execCommandFrame frame s
  | .creditFrame frame => Sys2Proof.Machine.execCreditFrame frame s
  | .transmissionStart => Sys2Proof.Machine.execTransmissionStart s
  | .transmissionEnd => Sys2Proof.Machine.execTransmissionEnd s
  | .linkUp => Sys2Proof.Machine.execLinkUp s
  | .linkDown => Sys2Proof.Machine.execLinkDown s
  | .readEntry tag channel bank => Sys2Proof.Machine.execReadEntry tag channel bank s
  | .writeEntry tag channel entry => Sys2Proof.Machine.execWriteEntry tag channel entry s
  | .loadShadow tag => Sys2Proof.Machine.execLoadShadow tag s
  | .commit tag => Sys2Proof.Machine.execCommit tag s
  | .setGroup tag group level enables => Sys2Proof.Machine.execSetGroup tag group level enables s
  | .readGroup tag group => Sys2Proof.Machine.execReadGroup tag group s
  | .clearFactors tag group mask => Sys2Proof.Machine.execClearFactors tag group mask s
  | .returnLevel tag depth presence factor => Sys2Proof.Machine.execReturnLevel tag depth presence factor s
  | .reportGate tag gate => Sys2Proof.Machine.execReportGate tag gate s
  | .substitute tag channel form value => Sys2Proof.Machine.execSubstitute tag channel form value s
  | .readSubstitutions tag => Sys2Proof.Machine.execReadSubstitutions tag s
  | .capture tag channels limit => Sys2Proof.Machine.execCapture tag channels limit s
  | .cancelCapture tag captureTag => Sys2Proof.Machine.execCancelCapture tag captureTag s
  | .readStatus tag clearCounters => Sys2Proof.Machine.execReadStatus tag clearCounters s
  | .setLink tag timeout forwarding => Sys2Proof.Machine.execSetLink tag timeout forwarding s
  | .resync tag => Sys2Proof.Machine.execResync tag s
  | .unknownCommand tag code arguments => Sys2Proof.Machine.execUnknownCommand tag code arguments s

end Sys2Proof.Machine
end

