-- ==== Sys2Proof/Machine/Idle.lean ====
section
/-! DEFINITION. What the part does when no event waits in the queue: its own next event, or else one period of
the time base (DESIGN CHOICE: notes/assumptions/1.md). -/

namespace Sys2Proof.Machine

/-- The event that one of the part's blocks takes next of its own accord, in this order: a raise taken by the
FRU (R79, R80), a declaration handled by the CE (R69), a selection attempt that would select (R101), a start
attempt that would start (R151), the execution of the command at the head of the queue (R163), a frame boundary
(R40). The attempts that would change nothing are left out, since they leave no trace (R101, R150, R163). -/
def State.ownEvent (s : State) : Option Instr :=
  if s.porst = .asserted then none
  else if s.handed.acquisition ≠ [] then some (.factorRaise .acquisitionLink)
  else if s.handed.condition ≠ [] then some (.factorRaise .conditionEngine)
  else if 0 < s.handed.declarations then some .declarationHandedToCe
  else if s.selectionDue then some .selectionAttempt
  else if s.startDue then some .transmissionStart
  else
    match s.mx.queue, s.dlt.freePlace with
    | f :: _, true => some f.row
    | _, _ => if s.boundaryDue then some .frameBoundary else none

/-- A step on an empty queue: the part's own next event, or else a period of the time base passes (R15). -/
def State.idle (s : State) : Host.Outcome State Fault Refusal :=
  match s.ownEvent with
  | some i => exec i s
  | none => .next s.period

end Sys2Proof.Machine
end

