-- ==== Sys2Proof/Machine/Step.lean ====
section
/-! DEFINITION. One step: the event at the front of the queue, or the idle part. -/

namespace Sys2Proof.Machine

/-- The event at the front of the queue, run on the state with the queue's rest; on an empty queue the part is
left to itself. -/
def step (s : State) : Host.Outcome State Fault Refusal :=
  match s.pending with
  | [] => s.idle
  | i :: rest => exec i { s with pending := rest }

/-- The state with the command that a word spells at the front of the queue; unchanged where the word spells none
(notes/assumptions/15.md). -/
def State.withFetchWord (s : State) (nbits w : Nat) : State :=
  match decodeTableWord nbits w with
  | some i => { s with pending := i :: s.pending }
  | none => s

end Sys2Proof.Machine
end

