-- ==== Sys2Proof/Safety.lean ====
section
/-! DEFINITION. The terms claims are stated in: when a command executes and what answering it leaves, what a frame
boundary makes of a capture record, and the invariants that the spec states of the whole part. Each invariant is
closed under every step by itself. -/

namespace Sys2Proof.Machine

/-! ### Executions -/

/-- The MX can execute this frame: PORST released, the frame at the head of the command queue with `rest` behind
it, and a free place in the response queue (R156, R163). -/
def State.Executes (s : State) (f : CommandFrame) (rest : List CommandFrame) : Prop :=
  s.porst = .released ∧ s.mx.queue = f :: rest ∧ s.dlt.responses.length + s.dlt.reservations ≤ 5

/-- The head frame removed from the command queue, which is left at `rest` (R162). -/
def State.dequeued (s : State) (rest : List CommandFrame) : State := { s with mx := { s.mx with queue := rest } }

/-- The head frame removed and one immediate response appended at the tail (R164). -/
def State.answered (s : State) (rest : List CommandFrame) (r : Response) : State :=
  { s with
    mx := { s.mx with queue := rest }
    dlt := { s.dlt with responses := s.dlt.responses ++ [r] } }

/-! ### A raise and a declaration -/

/-- A link factor handed to the FRU at the tail of the ALR's raises (R19). -/
def Handed.linkRaise (h : Handed) (f : FactorNo) (sequence : Option Byte) (timestamp : Option Word) : Handed :=
  { h with acquisition := h.acquisition ++ [⟨f, ⟨sequence, timestamp, none, none⟩⟩] }

/-- The five effects of a STALE declaration (R16). -/
def State.declared (s : State) : State :=
  { s with
    alr := { s.alr with
      freshness := .stale
      timer := .stopped
      expected := none
      counters := { s.alr.counters with staleDeclarations := s.alr.counters.staleDeclarations + 1 } }
    handed := { s.handed.linkRaise 31 none none with declarations := s.handed.declarations + 1 } }

/-! ### A capture record at a frame boundary -/

/-- The first entry of the frame that names a channel (R134). -/
def Frame.firstSample (f : Frame) (c : Channel) : Option Sample := f.samples.find? fun x => x.channel == c

/-- What a frame boundary makes of one capture record, with the substitution list as stage 2 leaves it: started if
it waits (R133), offered the frame (R134), then completed or counted down (R135). -/
def CaptureRecord.atBoundary (list : List SubstitutionEntry) (f : Frame) (r : CaptureRecord) :
    CaptureRecord ⊕ Response :=
  let left : Nat := match r.phase with
    | .waiting => r.limit
    | .collecting remaining => remaining
  let offered : CaptureRecord :=
    { r with
      phase := .collecting left
      slots := Vector.ofFn fun c =>
        if r.slots[c] ≠ none then r.slots[c]
        else if r.names c then (f.firstSample c).map fun x => ⟨x.value, f.sequence,
            list.any fun e => e.channel == c && e.current.isSome⟩
        else none }
  if ∀ c : Channel, r.names c → offered.slots[c] ≠ none then
    .inr (offered.completion .captureComplete (r.limit - left + 1))
  else if left ≤ 1 then .inr (offered.completion .captureTimeout r.limit)
  else .inl { offered with phase := .collecting (left - 1) }

/-! ### Invariants -/

/-- The excuse count and the IFQ stay within their sizes, and the timer runs exactly while freshness is FRESH and
the stale timeout is not 0, with 1 to the stale timeout periods remaining (R1, R10, section 1.6, R15). -/
def Alr.Ok (a : Alr) : Prop :=
  a.excuse ≤ Config.excuseCap ∧ a.ifq.length ≤ Config.ifqCapacity ∧
    match a.timer with
    | .stopped => a.freshness ≠ .fresh ∨ a.timeout = 0
    | .running remaining =>
      a.freshness = .fresh ∧ 1 ≤ remaining ∧ remaining ≤ a.timeout.toNat

/-- The ALR's state is within the values of R1 and R15. -/
def State.AlrOk (s : State) : Prop := s.alr.Ok

/-- Every frame in the IFQ has 1 to 16 entries (R4, R177). -/
def State.FramesOk (s : State) : Prop :=
  ∀ f ∈ s.alr.ifq, 1 ≤ f.samples.length ∧ f.samples.length ≤ 16

/-- The field ranges and the window checks of R29, on a stored entry. -/
def Entry.Valid (e : Entry) : Prop :=
  e.hysteresis.toNat ≤ 4095 ∧ 1 ≤ e.stepLimit.toNat ∧ e.stepLimit.toNat ≤ 32767 ∧
    1 ≤ e.onsetCount.toNat ∧ e.onsetCount.toNat ≤ 64 ∧ 1 ≤ e.releaseCount.toNat ∧ e.releaseCount.toNat ≤ 64 ∧
    (e.mode = .outside ∨ e.mode = .inside → e.low.toInt ≤ e.high.toInt) ∧
    (e.mode = .outside → 2 * (e.hysteresis.toNat : Int) ≤ e.high.toInt - e.low.toInt)

/-- The run count of a channel against the counts of its ACTIVE entry (R36). -/
def Live.Within (e : Entry) (l : Live) : Prop :=
  match l.state with
  | .clear | .active => l.run = 0
  | .onset => 1 ≤ l.run ∧ l.run + 1 ≤ e.onsetCount.toNat
  | .release => 1 ≤ l.run ∧ l.run + 1 ≤ e.releaseCount.toNat

/-- Every entry of both banks passes validation (R29), and every run count stays within the counts of the
channel's ACTIVE entry (R36). -/
def State.TableOk (s : State) : Prop :=
  ∀ c : Channel, (s.ce.active[c]).Valid ∧ (s.ce.shadow[c]).Valid ∧ (s.ce.live[c]).Within s.ce.active[c]

/-- The substitution list: at most 8 entries, no channel twice, every entry with a field present, and a previous
value for every channel with a pending HOLD (R115, R116, R123). -/
def State.SubstitutionsOk (s : State) : Prop :=
  s.ce.substitutions.length ≤ Config.substitutionCapacity ∧
    (s.ce.substitutions.map (·.channel)).Nodup ∧
    ∀ e ∈ s.ce.substitutions, (e.current ≠ none ∨ e.next ≠ none) ∧
      (e.next = some .hold → (s.ce.live[e.channel]).previous ≠ none)

/-- A capture record between boundaries: its limit, its set, and its frames remaining (R129). -/
def CaptureRecord.Ok (r : CaptureRecord) : Prop :=
  1 ≤ r.limit ∧ r.limit ≤ 64 ∧ r.complete = false ∧
    match r.phase with
    | .waiting => ∀ c : Channel, r.slots[c] = none
    | .collecting remaining => 1 ≤ remaining ∧ remaining < r.limit

/-- The capture list: at most 4 records, no two with one tag, each as R129 has it between boundaries (R128). -/
def State.CapturesOk (s : State) : Prop :=
  s.ce.captures.length ≤ Config.captureCapacity ∧ (s.ce.captures.map (·.tag)).Nodup ∧
    ∀ r ∈ s.ce.captures, r.Ok

/-- Reservations that operations hold: one per capture record, and one for a pending commit whose response is not
suppressed (R155). -/
def Ce.claims (ce : Ce) : Nat :=
  ce.captures.length +
    match ce.commit with
    | none => 0
    | some p => if p.suppressed then 0 else 1

/-- Entries plus reservations never exceed 6, and the reservations are those that operations hold, at most 5
(R130, R155, R156). -/
def State.ResponsesOk (s : State) : Prop :=
  s.dlt.responses.length + s.dlt.reservations ≤ Config.responseCapacity ∧
    s.dlt.reservations = s.ce.claims ∧ s.ce.captures.length ≤ Config.captureCapacity

/-- Credits, forward queue and command queue within their capacities (R144, R149, R154, R160). -/
def State.QueuesOk (s : State) : Prop :=
  s.dlt.credits ≤ Config.creditCap ∧ s.dlt.forwardQueue.length ≤ Config.forwardCapacity ∧
    s.mx.queue.length ≤ Config.commandCapacity

/-- A factor record: count 0 exactly when not raised, at most 255, and no first cause when not raised (R77, R78). -/
def FactorRecord.Ok (r : FactorRecord) : Prop :=
  (r.raised = false ↔ r.count = 0) ∧ r.count ≤ Config.raiseCap ∧ (r.raised = false → r.cause = .absent)

/-- Every factor record is as R77 and R78 have it. -/
def State.FactorsOk (s : State) : Prop := ∀ f : FactorNo, (s.fru.factors[f]).Ok

/-- The level stack and the report slot (R94, R95): saved levels strictly increase from the bottom and lie below
L, L is at most 4, the bottom saved level is 0 (L itself at depth 0), and a report in the slot has level L. -/
def Fru.Ok (fru : Fru) : Prop :=
  (fru.saved ++ [fru.level]).Pairwise (· < ·) ∧ fru.level ≤ 4 ∧ (fru.saved ++ [fru.level]).head? = some 0 ∧
    ∀ r, fru.slot = some r → 1 ≤ fru.depth ∧ r.level = fru.level

/-- The service state is as R94 and R95 have it. -/
def State.StackOk (s : State) : Prop := s.fru.Ok

/-- While the D-link is DOWN: no credit, nothing in transmission, both queues and the command queue empty, no
reservation, no capture, no commit response to come, slot and level stack empty, gate CLOSED (R145 to R147,
R113). -/
def State.DownOk (s : State) : Prop :=
  s.dlt.link = .down →
    s.dlt.credits = 0 ∧ s.dlt.transmitting = none ∧ s.dlt.forwardQueue = [] ∧ s.dlt.responses = [] ∧
      s.dlt.reservations = 0 ∧ s.mx.queue = [] ∧ s.ce.captures = [] ∧
      (∀ p, s.ce.commit = some p → p.suppressed = true) ∧
      s.fru.slot = none ∧ s.fru.saved = [] ∧ s.fru.level = 0 ∧ s.fru.gate = .closed

/-- Every command frame in the queue passed the tests of R161: its arguments have its command's length. -/
def State.CommandsOk (s : State) : Prop :=
  ∀ f ∈ s.mx.queue, ∀ n, argumentLength f.code = some n → f.arguments.length = n

/-- While PORST is asserted every item holds its power-on reset value (R182). -/
def State.PorstOk (s : State) : Prop :=
  s.porst = .asserted → s = { State.reset with porst := .asserted, pending := s.pending }

/-- Raises on their way name the factors of their source (R80). -/
def State.SourcesOk (s : State) : Prop :=
  (∀ x ∈ s.handed.acquisition, 28 ≤ x.factor.val) ∧ ∀ x ∈ s.handed.condition, x.factor.val ≤ 27

end Sys2Proof.Machine
end

