-- ==== Sys2Proof/Certificates/Slice0/Obligations.lean ====
section
/-! DEFINITION. The statements about the PJ32C, from the numbered rules of the spec. A next state is written out
as the state before with the fields the rules change, so every other field is unchanged. -/

section

open Sys2Proof Sys2Proof.Machine

/-! ### Power-on reset -/

/-- The power-on reset value of every item, as its owner gives it (R1, R21, R35, R38, R62, R76, R85, R93, R115, R128,
R144, R160). No owner names what is handed over between blocks: that it is nothing at reset, the last clause, is the
model's reading of R182 (notes/assumptions/2.md). -/
def Obligations.PowerOnResetValues : Prop :=
  State.reset.alr = ⟨.unlocked, none, 0, [], 0, .stopped, .never, ⟨0, 0, 0, 0, 0, 0, 0⟩⟩ ∧
  (∀ c : Channel,
    State.reset.ce.active[c] = ⟨.off, 0, 0, 0, 1, 1, 1, none, none⟩ ∧
    State.reset.ce.shadow[c] = ⟨.off, 0, 0, 0, 1, 1, 1, none, none⟩ ∧
    State.reset.ce.live[c] = ⟨.clear, 0, none, none⟩) ∧
  State.reset.ce.forwarding = .on ∧ State.reset.ce.forwarded = 0 ∧ State.reset.ce.shed = 0 ∧
  State.reset.ce.commit = none ∧ State.reset.ce.substitutions = [] ∧ State.reset.ce.captures = [] ∧
  (∀ f : FactorNo, State.reset.fru.factors[f] = ⟨false, 0, ⟨none, none, none, none⟩⟩) ∧
  (∀ g : GroupNo, State.reset.fru.groups[g].level = 0 ∧
    ∀ k : Fin 4, State.reset.fru.groups[g].enables.getLsbD k = decide (g = 7 ∧ k = 3)) ∧
  State.reset.fru.gate = .closed ∧ State.reset.fru.level = 0 ∧ State.reset.fru.saved = [] ∧
  State.reset.fru.slot = none ∧ State.reset.fru.serial = 0 ∧
  State.reset.dlt = ⟨.down, 0, none, [], [], 0, ⟨0, 0, 0, 0, 0⟩⟩ ∧
  State.reset.mx = ⟨[], 0, 0⟩ ∧
  State.reset.handed = ⟨[], [], 0⟩

/-- PORST_ASSERT sets every item to its power-on reset value; PORST_RELEASE of a part held in reset leaves the part
standing at those values with the time base running, alignment sought and the D-link training (R182). The model reads
those three from PORST, the lock state and the link state (notes/assumptions/8.md). -/
def Obligations.PorstAssertAndRelease : Prop :=
  (∀ s : State,
    exec .porstAssert s = .next { State.reset with porst := .asserted, pending := s.pending }) ∧
  (∀ s : State, exec .porstRelease s = .next { s with porst := .released }) ∧
  ∀ s : State, s.porst = .asserted → s.PorstOk →
    ∃ t, exec .porstRelease s = .next t ∧ t = { State.reset with pending := s.pending } ∧
      t.timeBaseRuns = true ∧ t.seekingAlignment = true ∧ t.training = true

/-- While PORST is asserted no row but its release changes anything (R182; that such a row leaves the state
unchanged is the model's reading, notes/assumptions/4.md). -/
def Obligations.NothingHappensWhilePorstIsAsserted : Prop :=
  ∀ (i : Instr) (s : State), s.porst = .asserted → s.PorstOk → i ≠ .porstRelease → exec i s = .next s

/-! ### Acquisition link -/

/-- R2. A good frame that meets the tracker as LOCK_GAINED leaves it, LOCKED and UNSYNCED, is taken as in sequence,
whatever its number and whatever came between: no gap is counted, raised or marked. -/
def Obligations.LockGainedResetsTheTracker : Prop :=
  (∀ s : State, s.porst = .released →
    exec .lockGained s = .next { s with alr := { s.alr with lock := .locked, expected := none, excuse := 0 } }) ∧
  ∀ (t : State) (frame : List Byte) (q : Byte) (ts : Word) (xs : List Sample),
    t.porst = .released → t.alr.lock = .locked → t.alr.expected = none → readArrival frame = .good q ts xs →
    ∃ u, exec (.arrival frame) t = .next u ∧ u.alr.expected = some (q + 1) ∧
      u.alr.counters.late = t.alr.counters.late ∧ u.alr.counters.missed = t.alr.counters.missed ∧
      (u.handed.acquisition = t.handed.acquisition ∨
        u.handed.acquisition = t.handed.acquisition ++ [⟨30, ⟨some q, some ts, none, none⟩⟩]) ∧
      ∀ f ∈ u.alr.ifq, f ∈ t.alr.ifq ∨ f = ⟨q, ts, xs, false⟩

/-- R3 with the effects of R16. -/
def Obligations.LockLostDeclaresStale : Prop :=
  ∀ s : State, s.porst = .released →
    (s.alr.lock = .unlocked → exec .lockLost s = .next s) ∧
    (s.alr.lock = .locked → s.alr.freshness = .stale →
      exec .lockLost s = .next { s with alr := { s.alr with lock := .unlocked } }) ∧
    (s.alr.lock = .locked → s.alr.freshness ≠ .stale →
      exec .lockLost s = .next { s with
        alr := { s.alr with
          lock := .unlocked
          freshness := .stale
          timer := .stopped
          expected := none
          counters := { s.alr.counters with staleDeclarations := s.alr.counters.staleDeclarations + 1 } }
        handed := { s.handed with
          acquisition := s.handed.acquisition ++ [⟨31, ⟨none, none, none, none⟩⟩]
          declarations := s.handed.declarations + 1 } })

/-- Tests 1 and 2 of R4 over the byte positions of R177. -/
def Obligations.ArrivalIsReadByItsLayout : Prop :=
  ∀ frame : List Byte,
    (readArrival frame = .checkFail ↔
      checkGood frame = false ∨ frame.getD 0 0 ≠ 17 ∨ frame.length < 9) ∧
    (checkGood frame = true → frame.getD 0 0 = 17 → 9 ≤ frame.length →
      let n := (frame.getD 6 0).toNat
      let timestamp := wordOf (frame.getD 2 0) (frame.getD 3 0) (frame.getD 4 0) (frame.getD 5 0)
      ((n = 0 ∨ 16 < n ∨ frame.length ≠ 9 + 3 * n ∨ ∃ i < n, 31 < (frame.getD (7 + 3 * i) 0).toNat) →
        readArrival frame = .formatFail (frame.getD 1 0) timestamp) ∧
      (1 ≤ n → n ≤ 16 → frame.length = 9 + 3 * n → (∀ i < n, (frame.getD (7 + 3 * i) 0).toNat ≤ 31) →
        ∃ xs : List Sample, readArrival frame = .good (frame.getD 1 0) timestamp xs ∧ xs.length = n ∧
          ∀ (i : Nat) (x : Sample), xs[i]? = some x →
            x.channel.val = (frame.getD (7 + 3 * i) 0).toNat ∧
            x.value = halfOf (frame.getD (8 + 3 * i) 0) (frame.getD (9 + 3 * i) 0)))

/-- A CHECK-FAIL arrival (R5) while LOCKED. R4 has arrivals delivered while LOCKED alone; that the row then changes
nothing while UNLOCKED is the model's reading (notes/assumptions/4.md). -/
def Obligations.CheckFailArrivalIsCountedAndExcuses : Prop :=
  ∀ (s : State) (frame : List Byte), s.porst = .released →
    (s.alr.lock = .unlocked → exec (.arrival frame) s = .next s) ∧
    (s.alr.lock = .locked → readArrival frame = .checkFail →
      exec (.arrival frame) s = .next { s with
        alr := { s.alr with
          excuse := if s.alr.excuse < 255 then s.alr.excuse + 1 else 255
          counters := { s.alr.counters with checkFail := s.alr.counters.checkFail + 1 } }
        handed := s.handed.linkRaise 28 none none })

/-- FORMAT-FAIL (R6) and LATE (R9): discarded, counted, LINK-ERROR raised; only LATE restarts a running timer. -/
def Obligations.FormatFailAndLateArrivalsAreDiscarded : Prop :=
  ∀ (s : State) (frame : List Byte) (q : Byte) (ts : Word), s.porst = .released → s.alr.lock = .locked →
    (readArrival frame = .formatFail q ts →
      exec (.arrival frame) s = .next { s with
        alr := { s.alr with counters := { s.alr.counters with formatFail := s.alr.counters.formatFail + 1 } }
        handed := s.handed.linkRaise 28 (some q) (some ts) }) ∧
    ∀ (xs : List Sample) (e : Byte), readArrival frame = .good q ts xs → s.alr.expected = some e →
      128 ≤ (q.toNat + 256 - e.toNat) % 256 →
      exec (.arrival frame) s = .next { s with
        alr := { s.alr with
          timer := if s.alr.timer = .stopped then .stopped else .running s.alr.timeout.toNat
          counters := { s.alr.counters with late := s.alr.counters.late + 1 } }
        handed := s.handed.linkRaise 28 (some q) (some ts) }

/-- A good frame that is not LATE, d frames ahead of the expected one (R7, R8, R12, R13, R15): the gap accounting,
then ACCEPTED with fewer than 8 frames in the IFQ and OVERRUN with 8. -/
def Obligations.InOrderArrivalIsAcceptedOrOverrun : Prop :=
  ∀ (s : State) (frame : List Byte) (q : Byte) (ts : Word) (xs : List Sample) (d : Nat),
    s.porst = .released → s.alr.lock = .locked → readArrival frame = .good q ts xs →
    (s.alr.expected = none ∧ d = 0 ∨
      ∃ e, s.alr.expected = some e ∧ d = (q.toNat + 256 - e.toNat) % 256 ∧ d ≤ 127) →
    let missed := if s.alr.excuse < d then s.alr.counters.missed + BitVec.ofNat 32 (d - s.alr.excuse)
      else s.alr.counters.missed
    let handed := if s.alr.excuse < d then s.handed.linkRaise 29 (some q) (some ts) else s.handed
    (s.alr.ifq.length ≤ 7 →
      exec (.arrival frame) s = .next { s with
        alr := { s.alr with
          ifq := s.alr.ifq ++ [⟨q, ts, xs, decide (s.alr.excuse < d)⟩]
          expected := some (q + 1)
          excuse := 0
          freshness := .fresh
          timer := if s.alr.timeout = 0 then s.alr.timer else .running s.alr.timeout.toNat
          counters := { s.alr.counters with accepted := s.alr.counters.accepted + 1, missed := missed } }
        handed := handed }) ∧
    (8 ≤ s.alr.ifq.length →
      exec (.arrival frame) s = .next { s with
        alr := { s.alr with
          expected := some (q + 1)
          excuse := 0
          timer := if s.alr.timer = .stopped then .stopped else .running s.alr.timeout.toNat
          counters := { s.alr.counters with overrun := s.alr.counters.overrun + 1, missed := missed } }
        handed := handed.linkRaise 30 (some q) (some ts) })

/-- The expiry of a running timer declares STALE (R15, R16). Two clauses are the model's readings: that the row is taken
at every remaining count (notes/assumptions/6.md), and that it changes nothing with the timer STOPPED, which by R15
does not expire (notes/assumptions/4.md). -/
def Obligations.TimerExpiryDeclaresStale : Prop :=
  ∀ s : State, s.porst = .released →
    (∀ n, s.alr.timer = .running n → exec .staleTimerExpiry s = .next s.declared) ∧
    (s.alr.timer = .stopped → exec .staleTimerExpiry s = .next s)

/-- A step on an empty queue (the model's choice, notes/assumptions/1.md): the part's own next event, else one
period of the time base, which decreases a running count by 1 and declares STALE when it reaches 0 (R15). -/
def Obligations.EmptyQueueStep : Prop :=
  ∀ s : State, s.pending = [] →
    (∀ i, s.ownEvent = some i → step s = exec i s) ∧
    (s.ownEvent = none → s.porst = .asserted → step s = .next s) ∧
    (s.ownEvent = none → s.porst = .released → s.alr.timer = .stopped → step s = .next s) ∧
    (∀ n, s.ownEvent = none → s.porst = .released → s.alr.timer = .running (n + 2) →
      step s = .next { s with alr := { s.alr with timer := .running (n + 1) } }) ∧
    (s.ownEvent = none → s.porst = .released → s.alr.timer = .running 1 → step s = .next s.declared)

/-! ### Evaluation of samples -/

/-- R45: the four limits, held at the ends of the sample range; for an OUTSIDE entry that passes check 9 the release
limits are exact and lie in order between the bounds. -/
def Obligations.DerivedLimits : Prop :=
  ∀ e : Entry,
    let held := fun x : Int => if x < -32768 then (-32768 : Int) else if 32767 < x then 32767 else x
    e.highReleaseLimit = held (e.high.toInt - e.hysteresis.toNat) ∧
    e.lowReleaseLimit = held (e.low.toInt + e.hysteresis.toNat) ∧
    e.lowOuterLimit = held (e.low.toInt - e.hysteresis.toNat) ∧
    e.highOuterLimit = held (e.high.toInt + e.hysteresis.toNat) ∧
    (e.Valid → e.mode = .outside →
      e.highReleaseLimit = e.high.toInt - e.hysteresis.toNat ∧
      e.lowReleaseLimit = e.low.toInt + e.hysteresis.toNat ∧
      e.low.toInt ≤ e.lowReleaseLimit ∧ e.lowReleaseLimit ≤ e.highReleaseLimit ∧
      e.highReleaseLimit ≤ e.high.toInt)

/-- The onset and release predicates of each mode (R46, R47, R48). -/
def Obligations.ConditionPredicates : Prop :=
  ∀ (e : Entry) (p : Option Half) (v : Half),
    (e.mode = .off → e.onsetQualifies p v = false ∧ e.releaseQualifies p v = false) ∧
    (e.mode = .above →
      (e.onsetQualifies p v = true ↔ e.high.toInt < v.toInt) ∧
      (e.releaseQualifies p v = true ↔ v.toInt ≤ e.highReleaseLimit)) ∧
    (e.mode = .below →
      (e.onsetQualifies p v = true ↔ v.toInt < e.low.toInt) ∧
      (e.releaseQualifies p v = true ↔ e.lowReleaseLimit ≤ v.toInt)) ∧
    (e.mode = .outside →
      (e.onsetQualifies p v = true ↔ e.high.toInt < v.toInt ∨ v.toInt < e.low.toInt) ∧
      (e.releaseQualifies p v = true ↔ e.lowReleaseLimit ≤ v.toInt ∧ v.toInt ≤ e.highReleaseLimit)) ∧
    (e.mode = .inside →
      (e.onsetQualifies p v = true ↔ e.low.toInt ≤ v.toInt ∧ v.toInt ≤ e.high.toInt) ∧
      (e.releaseQualifies p v = true ↔ v.toInt < e.lowOuterLimit ∨ e.highOuterLimit < v.toInt)) ∧
    (e.mode = .step →
      (e.onsetQualifies p v = true ↔
        ∃ b, p = some b ∧ (e.stepLimit.toNat : Int) < |v.toInt - b.toInt|) ∧
      (e.releaseQualifies p v = true ↔
        ∃ b, p = some b ∧ |v.toInt - b.toInt| ≤ (e.stepLimit.toNat : Int)))

/-- R49: the two predicates never hold for one sample, and the entries for which one holds for no value or for one
value alone. -/
def Obligations.PredicatesNeverHoldTogether : Prop :=
  ∀ (e : Entry) (p : Option Half) (v : Half),
    ¬(e.onsetQualifies p v = true ∧ e.releaseQualifies p v = true) ∧
    (e.mode = .above → e.high.toInt = 32767 → e.onsetQualifies p v = false) ∧
    (e.mode = .below → e.low.toInt = -32768 → e.onsetQualifies p v = false) ∧
    (e.mode = .above → e.high.toInt - e.hysteresis.toNat < -32768 →
      (e.releaseQualifies p v = true ↔ v.toInt = -32768)) ∧
    (e.mode = .below → 32767 < e.low.toInt + e.hysteresis.toNat →
      (e.releaseQualifies p v = true ↔ v.toInt = 32767)) ∧
    (e.mode = .inside → e.low.toInt - e.hysteresis.toNat < -32768 →
      (e.releaseQualifies p v = true ↔ e.highOuterLimit < v.toInt)) ∧
    (e.mode = .inside → 32767 < e.high.toInt + e.hysteresis.toNat →
      (e.releaseQualifies p v = true ↔ v.toInt < e.lowOuterLimit)) ∧
    (e.mode = .inside → e.low.toInt - e.hysteresis.toNat < -32768 →
      32767 < e.high.toInt + e.hysteresis.toNat → e.releaseQualifies p v = false) ∧
    (e.mode = .inside → e.low.toInt = -32768 → e.high.toInt = 32767 →
      e.onsetQualifies p v = true ∧ e.releaseQualifies p v = false) ∧
    (e.mode = .outside → e.low.toInt = -32768 → e.high.toInt = 32767 →
      e.onsetQualifies p v = false ∧
      (e.releaseQualifies p v = true ↔
        -32768 + (e.hysteresis.toNat : Int) ≤ v.toInt ∧ v.toInt ≤ 32767 - (e.hysteresis.toNat : Int)))

/-- R50 to R54, with the raise of R55: what one sample does to its channel's live state and to the raises handed
over, other channels untouched. `outcome` gives the state, the run count and the factor named. -/
def Obligations.SampleMovesItsChannel : Prop :=
  ∀ (active : Bank) (q : Byte) (ts : Word) (live : Vector Live 32) (raises : List Raise) (x : Sample),
    let e := active[x.channel]
    let l := live[x.channel]
    let onset := e.onsetQualifies l.previous x.value
    let release := e.releaseQualifies l.previous x.value
    let n := e.onsetCount.toNat
    let m := e.releaseCount.toNat
    let outcome := fun (state : ChannelState) (run : Nat) (named : Option ConditionFactor) =>
      evaluateSample active q ts (live, raises) x =
        (live.set x.channel ⟨state, run, some x.value, some q⟩,
          raises ++ (named.map fun f =>
            (⟨f.castLE (by omega), ⟨some q, some ts, some x.channel, some x.value⟩⟩ : Raise)).toList)
    (l.state = .clear → onset = true → n = 1 → outcome .active 0 e.onsetFactor) ∧
    (l.state = .clear → onset = true → 2 ≤ n → outcome .onset 1 none) ∧
    (l.state = .clear → onset = false → outcome .clear 0 none) ∧
    (l.state = .onset → onset = true → l.run + 1 = n → outcome .active 0 e.onsetFactor) ∧
    (l.state = .onset → onset = true → l.run + 1 < n → outcome .onset (l.run + 1) none) ∧
    (l.state = .onset → onset = false → outcome .clear 0 none) ∧
    (l.state = .active → release = true → m = 1 → outcome .clear 0 e.releaseFactor) ∧
    (l.state = .active → release = true → 2 ≤ m → outcome .release 1 none) ∧
    (l.state = .active → release = false → outcome .active 0 none) ∧
    (l.state = .release → release = true → l.run + 1 = m → outcome .clear 0 e.releaseFactor) ∧
    (l.state = .release → release = true → l.run + 1 < m → outcome .release (l.run + 1) none) ∧
    (l.state = .release → release = false → outcome .active 0 none)

/-! ### Frame boundary and declaration -/

/-- No boundary is taken with the IFQ empty, nor while the CE is held (R39); that the row then leaves the state as it is
is the model's reading (notes/assumptions/4.md). -/
def Obligations.HeldEngineTakesNoFrame : Prop :=
  ∀ s : State, s.porst = .released →
    (s.alr.ifq = [] ∨
      (s.ce.forwarding = .on ∧ s.dlt.link = .up ∧ 8 ≤ s.dlt.forwardQueue.length)) →
    exec .frameBoundary s = .next s

/-- A boundary (R39) takes the head of the IFQ, applies a pending commit before the evaluation (R42, R66 to R68) and
evaluates every entry in order on the bank and the live state that leaves (R44, R56); it leaves the FRU, the MX and
the rest of the ALR as they are, and hands the raises over in entry order (R43). -/
def Obligations.BoundaryCommitsThenEvaluates : Prop :=
  ∀ (s : State) (f : Frame) (rest : List Frame), s.porst = .released → s.alr.ifq = f :: rest →
    (s.dlt.forwardQueue.length ≤ 7 ∨ s.ce.forwarding = .off ∨ s.dlt.link = .down) →
    ∃ (bank : Bank) (live : Vector Live 32) (t : State), exec .frameBoundary s = .next t ∧
      (s.ce.commit = none → bank = s.ce.active ∧ live = s.ce.live) ∧
      (s.ce.commit ≠ none → bank = s.ce.shadow ∧ ∀ c : Channel,
        live[c] = if s.ce.shadow[c] = s.ce.active[c] then s.ce.live[c]
          else { s.ce.live[c] with state := .clear, run := 0 }) ∧
      t.alr = { s.alr with ifq := rest } ∧ t.fru = s.fru ∧ t.mx = s.mx ∧ t.porst = s.porst ∧
      t.pending = s.pending ∧
      t.ce.active = bank ∧ t.ce.shadow = s.ce.shadow ∧ t.ce.forwarding = s.ce.forwarding ∧ t.ce.commit = none ∧
      (t.ce.live, t.handed.condition) =
        f.samples.foldl (evaluateSample bank f.sequence f.timestamp) (live, s.handed.condition) ∧
      t.handed.acquisition = s.handed.acquisition ∧ t.handed.declarations = s.handed.declarations

/-- The substitution list across a boundary (R122, R123) and the output frame built from it and disposed of
(R57, R58, R124). The premise on the list is the invariant that every pending HOLD has a previous value. -/
def Obligations.BoundarySubstitutesAndDisposes : Prop :=
  ∀ (s : State) (f : Frame) (rest : List Frame), s.porst = .released → s.alr.ifq = f :: rest →
    (s.dlt.forwardQueue.length ≤ 7 ∨ s.ce.forwarding = .off ∨ s.dlt.link = .down) → s.SubstitutionsOk →
    ∃ t, exec .frameBoundary s = .next t ∧
      t.ce.substitutions = s.ce.substitutions.filterMap (fun e =>
        match e.next with
        | none => some e
        | some (.force v) => some ⟨e.channel, some (.force v), none⟩
        | some .hold => s.ce.live[e.channel].previous.map fun v => ⟨e.channel, some (.hold v), none⟩
        | some .remove => none) ∧
      let output : OutputFrame := ⟨f.sequence, f.timestamp, f.gapBefore, f.samples.map fun x =>
        match t.ce.substitutions.find? (fun e => e.channel == x.channel) with
        | some ⟨_, some (.force v), _⟩ => ⟨x.channel, v, true⟩
        | some ⟨_, some (.hold v), _⟩ => ⟨x.channel, v, true⟩
        | _ => ⟨x.channel, x.value, false⟩⟩
      (s.ce.forwarding = .on → s.dlt.link = .up →
        t.dlt.forwardQueue = s.dlt.forwardQueue ++ [output] ∧
        t.ce.forwarded = s.ce.forwarded + 1 ∧ t.ce.shed = s.ce.shed) ∧
      (s.ce.forwarding = .on → s.dlt.link = .down →
        t.dlt.forwardQueue = s.dlt.forwardQueue ∧ t.ce.forwarded = s.ce.forwarded ∧ t.ce.shed = s.ce.shed + 1) ∧
      (s.ce.forwarding = .off →
        t.dlt.forwardQueue = s.dlt.forwardQueue ∧ t.ce.forwarded = s.ce.forwarded ∧ t.ce.shed = s.ce.shed)

/-- The responses of a boundary (R43, R68, R71, R133 to R137): the COMMIT-DONE of a commit that is not suppressed,
then the completions in list order, each in its reservation; the other records stay. The rest of the DLT is
unchanged but for the forward queue. -/
def Obligations.BoundaryCompletesCaptures : Prop :=
  ∀ (s : State) (f : Frame) (rest : List Frame), s.porst = .released → s.alr.ifq = f :: rest →
    (s.dlt.forwardQueue.length ≤ 7 ∨ s.ce.forwarding = .off ∨ s.dlt.link = .down) →
    ∃ t, exec .frameBoundary s = .next t ∧
      let ends := s.ce.captures.map (CaptureRecord.atBoundary t.ce.substitutions f)
      let done : List Response :=
        match s.ce.commit with
        | some ⟨tag, false⟩ =>
          [⟨tag, 4, .commitDone, [1, 1, f.sequence, BitVec.ofNat 8
            ((List.finRange 32).filter fun c => decide (s.ce.shadow[c] ≠ s.ce.active[c])).length]⟩]
        | _ => []
      let completions := ends.filterMap Sum.getRight?
      t.ce.captures = ends.filterMap Sum.getLeft? ∧
      t.dlt = { s.dlt with
        forwardQueue := t.dlt.forwardQueue
        responses := s.dlt.responses ++ done ++ completions
        reservations := s.dlt.reservations - done.length - completions.length }

/-- A declaration handed to the CE (R69, R138): a pending commit is applied and answered first, then every record
completes with CAPTURE-STALE in list order, as one operation. That nothing changes with none handed over is the model's
reading (notes/assumptions/4.md), on its own count of those on their way (notes/assumptions/2.md). -/
def Obligations.DeclarationAppliesCommitThenEndsCaptures : Prop :=
  ∀ s : State, s.porst = .released →
    (s.handed.declarations = 0 → exec .declarationHandedToCe s = .next s) ∧
    ∀ n, s.handed.declarations = n + 1 →
      let done : List Response :=
        match s.ce.commit with
        | some ⟨tag, false⟩ =>
          [⟨tag, 4, .commitDone, [2, 0, 0, BitVec.ofNat 8
            ((List.finRange 32).filter fun c => decide (s.ce.shadow[c] ≠ s.ce.active[c])).length]⟩]
        | _ => []
      let ends := s.ce.captures.map fun r =>
        r.completion .captureStale (match r.phase with | .waiting => 0 | .collecting k => r.limit - k)
      ∃ (live : Vector Live 32) (t : State), exec .declarationHandedToCe s = .next t ∧
        (s.ce.commit = none → live = s.ce.live) ∧
        (s.ce.commit ≠ none → ∀ c : Channel,
          live[c] = if s.ce.shadow[c] = s.ce.active[c] then s.ce.live[c]
            else { s.ce.live[c] with state := .clear, run := 0 }) ∧
        t = { s with
          ce := { s.ce with
            active := if s.ce.commit = none then s.ce.active else s.ce.shadow
            live := live
            commit := none
            captures := [] }
          dlt := { s.dlt with
            responses := s.dlt.responses ++ done ++ ends
            reservations := s.dlt.reservations - done.length - ends.length }
          handed := { s.handed with declarations := n } }

/-! ### Factors and reports -/

/-- The FRU takes the next raise of a source (R79, R80): the named record alone changes. That nothing changes with none
handed over, the first two clauses, is the model's reading (notes/assumptions/4.md), on its own lists of those on their
way (notes/assumptions/2.md). -/
def Obligations.RaiseActsOnItsRecord : Prop :=
  ∀ s : State, s.porst = .released →
    let raised := fun (x : Raise) (r : FactorRecord) =>
      if r.raised then ({ r with count := if r.count < 255 then r.count + 1 else 255 } : FactorRecord)
      else ⟨true, 1, x.cause⟩
    (s.handed.acquisition = [] → exec (.factorRaise .acquisitionLink) s = .next s) ∧
    (s.handed.condition = [] → exec (.factorRaise .conditionEngine) s = .next s) ∧
    (∀ x rest, s.handed.acquisition = x :: rest →
      exec (.factorRaise .acquisitionLink) s = .next { s with
        handed := { s.handed with acquisition := rest }
        fru := { s.fru with factors := s.fru.factors.set x.factor (raised x s.fru.factors[x.factor]) } }) ∧
    (∀ x rest, s.handed.condition = x :: rest →
      exec (.factorRaise .conditionEngine) s = .next { s with
        handed := { s.handed with condition := rest }
        fru := { s.fru with factors := s.fru.factors.set x.factor (raised x s.fru.factors[x.factor]) } })

/-- R86, and the candidates of R87. -/
def Obligations.EffectiveLevelAndCandidates : Prop :=
  ∀ fru : Fru,
    fru.effectiveLevel 31 = 4 ∧
    (∀ f : FactorNo, f ≠ 31 → ∀ g : GroupNo, g.val = f.val / 4 →
      fru.effectiveLevel f = fru.groups[g].level.val ∧ fru.effectiveLevel f ≤ 3) ∧
    ∀ (f : FactorNo) (g : GroupNo) (k : Fin 4), f.val = 4 * g.val + k.val →
      (fru.candidate f = true ↔
        fru.factors[f].raised = true ∧ fru.groups[g].enables.getLsbD k.val = true ∧ 1 ≤ fru.effectiveLevel f)

/-- A selection attempt (R99, R100, R104): when any of the four conditions fails nothing changes; otherwise the first
candidate f above L in report order is selected. -/
def Obligations.AttemptSelectsFirstCandidateOrNothing : Prop :=
  (∀ s : State, s.porst = .released →
    (s.fru.gate = .closed ∨ s.fru.slot ≠ none ∨ s.dlt.link = .down ∨
      ∀ f : FactorNo, s.fru.candidate f = true → s.fru.effectiveLevel f ≤ s.fru.level) →
    exec .selectionAttempt s = .next s) ∧
  ∀ (s : State) (f : FactorNo) (g : GroupNo), s.porst = .released →
    s.fru.gate = .opened → s.fru.slot = none → s.dlt.link = .up →
    g.val = f.val / 4 → s.fru.candidate f = true → s.fru.level < s.fru.effectiveLevel f →
    (∀ h : FactorNo, s.fru.candidate h = true → s.fru.level < s.fru.effectiveLevel h → h ≠ f →
      s.fru.effectiveLevel h < s.fru.effectiveLevel f ∨
      (s.fru.effectiveLevel h = s.fru.effectiveLevel f ∧ f < h)) →
    ∃ flags : BitVec 4,
      (∀ (k : Fin 4) (h : FactorNo), h.val = 4 * g.val + k.val → flags.getLsbD k.val = s.fru.factors[h].raised) ∧
      exec .selectionAttempt s = .next { s with
        fru := { s.fru with
          saved := s.fru.saved ++ [s.fru.level]
          level := s.fru.effectiveLevel f
          serial := s.fru.serial + 1
          slot := some
            { serial := s.fru.serial + 1
              factor := f
              level := s.fru.effectiveLevel f
              depth := s.fru.saved.length + 1
              count := s.fru.factors[f].count
              cause := s.fru.factors[f].cause
              groupRaised := flags
              freshness := s.alr.freshness } } }

/-! ### Delivery link -/

/-- Which return-lane frames are credit frames, and a credit frame while UP (R148, R149, R180). -/
def Obligations.CreditFrameAddsItsGrant : Prop :=
  (∀ frame : List Byte, isCreditFrame frame = true ↔ checkGood frame = true ∧ frame.getD 0 0 = 81) ∧
  ∀ (s : State) (frame : List Byte), s.porst = .released → s.dlt.link = .up → isCreditFrame frame = true →
    (frame.length = 4 → 1 ≤ (frame.getD 1 0).toNat → (frame.getD 1 0).toNat ≤ 63 →
      exec (.creditFrame frame) s = .next { s with
        dlt := { s.dlt with
          credits := if s.dlt.credits + (frame.getD 1 0).toNat ≤ 63
            then s.dlt.credits + (frame.getD 1 0).toNat else 63 } }) ∧
    ((frame.length ≠ 4 ∨ (frame.getD 1 0).toNat = 0 ∨ 63 < (frame.getD 1 0).toNat) →
      exec (.creditFrame frame) s = .next { s with
        dlt := { s.dlt with
          counters := { s.dlt.counters with creditDiscarded := s.dlt.counters.creditDiscarded + 1 } } })

/-- The four tests of R161 over the byte positions and the sixteen argument lengths of R179. -/
def Obligations.CommandFrameTests : Prop :=
  ∀ (frame : List Byte) (f : CommandFrame),
    readCommandFrame frame = some f ↔
      checkGood frame = true ∧ frame.getD 0 0 = 65 ∧ 5 ≤ frame.length ∧
      (∀ (k : Nat) (n : Nat), (frame.getD 2 0).toNat = k + 1 →
        [2, 15, 0, 0, 3, 1, 2, 3, 1, 4, 0, 5, 1, 1, 3, 0][k]? = some n → frame.length = n + 5) ∧
      f = ⟨frame.getD 1 0, frame.getD 2 0, (frame.drop 3).take (frame.length - 5)⟩

/-- A return-lane frame handed to the MX while UP (R148, R161, R162): dropped, discarded at a full queue, or appended. -/
def Obligations.CommandFrameIsQueuedOrCounted : Prop :=
  ∀ (s : State) (frame : List Byte), s.porst = .released → s.dlt.link = .up → isCreditFrame frame = false →
    (readCommandFrame frame = none →
      exec (.commandFrame frame) s = .next { s with mx := { s.mx with checkFail := s.mx.checkFail + 1 } }) ∧
    ∀ f, readCommandFrame frame = some f →
      (4 ≤ s.mx.queue.length →
        exec (.commandFrame frame) s = .next { s with mx := { s.mx with discarded := s.mx.discarded + 1 } }) ∧
      (s.mx.queue.length ≤ 3 →
        exec (.commandFrame frame) s = .next { s with mx := { s.mx with queue := s.mx.queue ++ [f] } })

/-- A transmission start (R150, R152): the slot first, then the response queue, then the forward queue; nothing when
a condition fails. -/
def Obligations.TransmissionStartChoosesTheSource : Prop :=
  ∀ s : State, s.porst = .released →
    ((s.dlt.link = .down ∨ s.dlt.transmitting ≠ none ∨ s.dlt.credits = 0 ∨
        (s.fru.slot = none ∧ s.dlt.responses = [] ∧ s.dlt.forwardQueue = [])) →
      exec .transmissionStart s = .next s) ∧
    (s.dlt.link = .up → s.dlt.transmitting = none → 1 ≤ s.dlt.credits →
      (∀ r, s.fru.slot = some r →
        exec .transmissionStart s = .next { s with
          fru := { s.fru with slot := none }
          dlt := { s.dlt with
            credits := s.dlt.credits - 1
            transmitting := some (.report r)
            counters := { s.dlt.counters with reportStarted := s.dlt.counters.reportStarted + 1 } } }) ∧
      (∀ r rest, s.fru.slot = none → s.dlt.responses = r :: rest →
        exec .transmissionStart s = .next { s with
          dlt := { s.dlt with
            responses := rest
            credits := s.dlt.credits - 1
            transmitting := some (.response r)
            counters := { s.dlt.counters with responseStarted := s.dlt.counters.responseStarted + 1 } } }) ∧
      (∀ f rest, s.fru.slot = none → s.dlt.responses = [] → s.dlt.forwardQueue = f :: rest →
        exec .transmissionStart s = .next { s with
          dlt := { s.dlt with
            forwardQueue := rest
            credits := s.dlt.credits - 1
            transmitting := some (.sample f)
            counters := { s.dlt.counters with sampleStarted := s.dlt.counters.sampleStarted + 1 } } }))

/-- A transmission end leaves the lane free and returns no credit (R153); LINK_UP changes the link state alone
(R145); while the D-link is DOWN no return-lane frame is received (R145). That a row naming one of these in a state where
it cannot occur changes nothing is the model's reading (notes/assumptions/4.md). -/
def Obligations.TransmissionEndLinkUpAndSilentLane : Prop :=
  ∀ s : State, s.porst = .released →
    exec .transmissionEnd s = .next { s with dlt := { s.dlt with transmitting := none } } ∧
    exec .linkUp s = .next { s with dlt := { s.dlt with link := .up } } ∧
    ∀ frame, s.dlt.link = .down →
      exec (.creditFrame frame) s = .next s ∧ exec (.commandFrame frame) s = .next s

/-- The delivery link reset, every block's share in one event (R1, R60, R72, R112, R141, R146, R147, R169). -/
def Obligations.LinkDownResetsEveryShare : Prop :=
  ∀ s : State, s.porst = .released →
    exec .linkDown s = .next { s with
      ce := { s.ce with
        shed := s.ce.shed + BitVec.ofNat 32 s.dlt.forwardQueue.length
        commit := s.ce.commit.map fun p => ⟨p.tag, true⟩
        captures := [] }
      fru := { s.fru with slot := none, saved := [], level := 0, gate := .closed }
      dlt :=
        { link := .down
          credits := 0
          transmitting := none
          forwardQueue := []
          responses := []
          reservations := 0
          counters := if s.dlt.transmitting = none then s.dlt.counters
            else { s.dlt.counters with abandoned := s.dlt.counters.abandoned + 1 } }
      mx := { s.mx with queue := [], discarded := s.mx.discarded + BitVec.ofNat 32 s.mx.queue.length } }

/-! ### Commands on the channel condition table -/

/-- READ_ENTRY (R33, R178, R181): the argument checks, then the entry of the bank named and the live state, with the
codes of the modes and of the channel states. That bits 2 to 7 of the factor-presence byte are sent as 0 is the model's
choice (notes/assumptions/18.md). -/
def Obligations.ReadEntryReportsEntryAndLiveState : Prop :=
  ∀ (s : State) (tag channel bank : Byte) (rest : List CommandFrame), s.Executes ⟨tag, 1, [channel, bank]⟩ rest →
    ((31 < channel.toNat ∨ 1 < bank.toNat) →
      exec (.readEntry tag channel bank) s = .next (s.answered rest ⟨tag, 1, .badArgument, [channel, bank]⟩)) ∧
    ∀ c : Channel, channel.toNat = c.val → bank.toNat ≤ 1 →
      let e := if bank = 0 then s.ce.active[c] else s.ce.shadow[c]
      let l := s.ce.live[c]
      let mode : Byte := match e.mode with
        | .off => 0 | .above => 1 | .below => 2 | .outside => 3 | .inside => 4 | .step => 5
      let state : Byte := match l.state with
        | .clear => 0 | .onset => 1 | .active => 2 | .release => 3
      exec (.readEntry tag channel bank) s = .next (s.answered rest ⟨tag, 1, .done,
        [channel, bank, mode] ++ halfBytes e.high ++ halfBytes e.low ++ halfBytes e.hysteresis ++
          halfBytes e.stepLimit ++
          [e.onsetCount, e.releaseCount,
            (if e.onsetFactor.isSome then 1 else 0) + (if e.releaseFactor.isSome then 2 else 0),
            BitVec.ofNat 8 ((e.onsetFactor.map (·.val)).getD 0),
            BitVec.ofNat 8 ((e.releaseFactor.map (·.val)).getD 0),
            state, BitVec.ofNat 8 l.run] ++
          (match l.previous with | none => [0, 0, 0] | some v => 1 :: halfBytes v) ++
          (match l.lastSeen with | none => [0, 0] | some q => [1, q])⟩)

/-- WRITE_ENTRY (R28, R30, R32, with the argument bytes of R179): argument check, pending commit, entry checks, then
the one SHADOW entry. -/
def Obligations.WriteEntryChecksThenWritesShadow : Prop :=
  ∀ (s : State) (tag channel : Byte) (args : EntryArgs) (rest : List CommandFrame),
    let arguments := channel :: args.mode :: halfBytes args.high ++ halfBytes args.low ++
      halfBytes args.hysteresis ++ halfBytes args.stepLimit ++
      [args.onsetCount, args.releaseCount, args.presence, args.onsetFactor, args.releaseFactor]
    s.Executes ⟨tag, 2, arguments⟩ rest →
    (31 < channel.toNat →
      exec (.writeEntry tag channel args) s = .next (s.answered rest ⟨tag, 2, .badArgument, arguments⟩)) ∧
    ∀ c : Channel, channel.toNat = c.val →
      (∀ p, s.ce.commit = some p →
        exec (.writeEntry tag channel args) s = .next (s.answered rest ⟨tag, 2, .commitPending, [p.tag]⟩)) ∧
      (∀ k, s.ce.commit = none → EntryArgs.failedCheck args = some k →
        exec (.writeEntry tag channel args) s =
          .next (s.answered rest ⟨tag, 2, .badEntry, [channel, BitVec.ofNat 8 k]⟩)) ∧
      (s.ce.commit = none → EntryArgs.failedCheck args = none →
        exec (.writeEntry tag channel args) s =
          .next (({ s with ce := { s.ce with shadow := s.ce.shadow.set c (EntryArgs.entry args) } } : State).answered
            rest ⟨tag, 2, .done, [channel]⟩))

/-- The nine entry checks (R29) with the mode codes of R178 and the presence bits of R180: the
lowest-numbered check that fails is the one reported, and an entry that fails none is stored field by field and is
valid. -/
def Obligations.EntryChecks : Prop :=
  ∀ a : EntryArgs,
    let fails : Nat → Prop := fun k =>
      (k = 1 ∧ 5 < a.mode.toNat) ∨ (k = 2 ∧ 4095 < a.hysteresis.toNat) ∨
      (k = 3 ∧ (a.stepLimit.toNat = 0 ∨ 32767 < a.stepLimit.toNat)) ∨
      (k = 4 ∧ (a.onsetCount.toNat = 0 ∨ 64 < a.onsetCount.toNat)) ∨
      (k = 5 ∧ (a.releaseCount.toNat = 0 ∨ 64 < a.releaseCount.toNat)) ∨
      (k = 6 ∧ a.presence.getLsbD 0 = true ∧ 27 < a.onsetFactor.toNat) ∨
      (k = 7 ∧ a.presence.getLsbD 1 = true ∧ 27 < a.releaseFactor.toNat) ∨
      (k = 8 ∧ (a.mode = 3 ∨ a.mode = 4) ∧ a.high.toInt < a.low.toInt) ∨
      (k = 9 ∧ a.mode = 3 ∧ a.high.toInt - a.low.toInt < 2 * (a.hysteresis.toNat : Int))
    (∀ k, EntryArgs.failedCheck a = some k ↔ fails k ∧ ∀ j < k, ¬fails j) ∧
    (EntryArgs.failedCheck a = none ↔ ∀ k, ¬fails k) ∧
    (EntryArgs.failedCheck a = none →
      let e := EntryArgs.entry a
      let mode : Byte := match e.mode with
        | .off => 0 | .above => 1 | .below => 2 | .outside => 3 | .inside => 4 | .step => 5
      e.Valid ∧ mode = a.mode ∧ e.high = a.high ∧ e.low = a.low ∧ e.hysteresis = a.hysteresis ∧
      e.stepLimit = a.stepLimit ∧ e.onsetCount = a.onsetCount ∧ e.releaseCount = a.releaseCount ∧
      e.onsetFactor.map (·.val) = (if a.presence.getLsbD 0 then some a.onsetFactor.toNat else none) ∧
      e.releaseFactor.map (·.val) = (if a.presence.getLsbD 1 then some a.releaseFactor.toNat else none))

/-- LOAD_SHADOW (R31, R34). -/
def Obligations.LoadShadowCopiesActive : Prop :=
  ∀ (s : State) (tag : Byte) (rest : List CommandFrame), s.Executes ⟨tag, 3, []⟩ rest →
    (∀ p, s.ce.commit = some p →
      exec (.loadShadow tag) s = .next (s.answered rest ⟨tag, 3, .commitPending, [p.tag]⟩)) ∧
    (s.ce.commit = none →
      exec (.loadShadow tag) s =
        .next (({ s with ce := { s.ce with shadow := s.ce.active } } : State).answered rest
          ⟨tag, 3, .done, [BitVec.ofNat 8
            ((List.finRange 32).filter fun c => decide (s.ce.shadow[c] ≠ s.ce.active[c])).length]⟩))

/-- COMMIT (R63 to R67, R70, R71): refused while one is pending, pending while the A-link delivers, else at once. -/
def Obligations.CommitIsRefusedPendingOrAtOnce : Prop :=
  ∀ (s : State) (tag : Byte) (rest : List CommandFrame), s.Executes ⟨tag, 4, []⟩ rest →
    (∀ p, s.ce.commit = some p →
      exec (.commit tag) s = .next (s.answered rest ⟨tag, 4, .commitPending, [p.tag]⟩)) ∧
    (s.ce.commit = none → s.alr.lock = .locked → s.alr.freshness = .fresh →
      exec (.commit tag) s = .next { s.dequeued rest with
        ce := { s.ce with commit := some ⟨tag, false⟩ }
        dlt := { s.dlt with reservations := s.dlt.reservations + 1 } }) ∧
    (s.ce.commit = none → (s.alr.lock = .unlocked ∨ s.alr.freshness ≠ .fresh) →
      ∃ live : Vector Live 32,
        (∀ c : Channel, live[c] = if s.ce.shadow[c] = s.ce.active[c] then s.ce.live[c]
          else { s.ce.live[c] with state := .clear, run := 0 }) ∧
        exec (.commit tag) s =
          .next (({ s with ce := { s.ce with active := s.ce.shadow, live := live } } : State).answered rest
            ⟨tag, 4, .commitDone, [0, 0, 0, BitVec.ofNat 8
              ((List.finRange 32).filter fun c => decide (s.ce.shadow[c] ≠ s.ce.active[c])).length]⟩))

/-! ### Commands on the factor and report unit -/

/-- SET_GROUP (R89, R90). -/
def Obligations.SetGroupWritesItsRecord : Prop :=
  ∀ (s : State) (tag group level enables : Byte) (rest : List CommandFrame),
    s.Executes ⟨tag, 5, [group, level, enables]⟩ rest →
    ((7 < group.toNat ∨ 3 < level.toNat ∨ 15 < enables.toNat) →
      exec (.setGroup tag group level enables) s =
        .next (s.answered rest ⟨tag, 5, .badArgument, [group, level, enables]⟩)) ∧
    ∀ (g : GroupNo) (l : Fin 4) (e : BitVec 4),
      group.toNat = g.val → level.toNat = l.val → enables.toNat = e.toNat →
      exec (.setGroup tag group level enables) s =
        .next (({ s with fru := { s.fru with groups := s.fru.groups.set g ⟨l, e⟩ } } : State).answered rest
          ⟨tag, 5, .done, [group, level, enables]⟩)

/-- READ_GROUP (R91, R179, R181). That the bits of the enables byte and of the first-cause presence bytes that no rule
names, 4 to 7, are sent as 0 is the model's choice (notes/assumptions/18.md). -/
def Obligations.ReadGroupReportsItsFactors : Prop :=
  ∀ (s : State) (tag group : Byte) (rest : List CommandFrame), s.Executes ⟨tag, 6, [group]⟩ rest →
    (7 < group.toNat →
      exec (.readGroup tag group) s = .next (s.answered rest ⟨tag, 6, .badArgument, [group]⟩)) ∧
    ∀ g : GroupNo, group.toNat = g.val →
      let item := fun f : FactorNo =>
        let r := s.fru.factors[f]
        [BitVec.ofNat 8 f.val, BitVec.ofNat 8 (s.fru.effectiveLevel f), (if r.raised then 1 else 0),
          BitVec.ofNat 8 r.count,
          (if r.cause.sequence.isSome then 1 else 0) + (if r.cause.timestamp.isSome then 2 else 0) +
            (if r.cause.channel.isSome then 4 else 0) + (if r.cause.value.isSome then 8 else 0),
          r.cause.sequence.getD 0] ++ wordBytes (r.cause.timestamp.getD 0) ++
          [BitVec.ofNat 8 ((r.cause.channel.map (·.val)).getD 0)] ++ halfBytes (r.cause.value.getD 0)
      exec (.readGroup tag group) s = .next (s.answered rest ⟨tag, 6, .done,
        [group, BitVec.ofNat 8 s.fru.groups[g].level.val, BitVec.ofNat 8 s.fru.groups[g].enables.toNat] ++
          item ⟨4 * g.val, by omega⟩ ++ item ⟨4 * g.val + 1, by omega⟩ ++
          item ⟨4 * g.val + 2, by omega⟩ ++ item ⟨4 * g.val + 3, by omega⟩⟩)

/-- CLEAR_FACTORS (R81, R82): the named factors of the group are cleared and no other, and the response carries the
counts they held. -/
def Obligations.ClearFactorsClearsTheNamedOnes : Prop :=
  ∀ (s : State) (tag group mask : Byte) (rest : List CommandFrame), s.Executes ⟨tag, 7, [group, mask]⟩ rest →
    ((7 < group.toNat ∨ 15 < mask.toNat) →
      exec (.clearFactors tag group mask) s = .next (s.answered rest ⟨tag, 7, .badArgument, [group, mask]⟩)) ∧
    ∀ g : GroupNo, group.toNat = g.val → mask.toNat ≤ 15 →
      let count := fun (k : Nat) (h : k < 4) =>
        if mask.getLsbD k then BitVec.ofNat 8 (s.fru.factors[4 * g.val + k]'(by omega)).count else 0
      ∃ factors : Vector FactorRecord 32,
        (∀ f : FactorNo, factors[f] =
          if f.val / 4 = g.val ∧ mask.getLsbD (f.val % 4) = true then ⟨false, 0, ⟨none, none, none, none⟩⟩
          else s.fru.factors[f]) ∧
        exec (.clearFactors tag group mask) s =
          .next (({ s with fru := { s.fru with factors := factors } } : State).answered rest
            ⟨tag, 7, .done, [group, mask, count 0 (by omega), count 1 (by omega), count 2 (by omega),
              count 3 (by omega)]⟩)

/-- RETURN (R106, R107, R108, R180): the five checks in order, and the clear and the pop of an accepted one. The
0 sent as the count cleared by a RETURN without a factor is read from R178 (notes/assumptions/10.md). -/
def Obligations.ReturnChecksThenPops : Prop :=
  ∀ (s : State) (tag depth presence factor : Byte) (rest : List CommandFrame),
    s.Executes ⟨tag, 8, [depth, presence, factor]⟩ rest →
    let named := presence.getLsbD 0
    let d := s.fru.saved.length
    let depthByte := BitVec.ofNat 8 d
    let levelByte := BitVec.ofNat 8 s.fru.level
    ((depth.toNat = 0 ∨ 4 < depth.toNat ∨ (named = true ∧ 31 < factor.toNat)) →
      exec (.returnLevel tag depth presence factor) s =
        .next (s.answered rest ⟨tag, 8, .badArgument, [depth, presence, factor]⟩)) ∧
    (1 ≤ depth.toNat → depth.toNat ≤ 4 → (named = true → factor.toNat ≤ 31) →
      (d = 0 →
        exec (.returnLevel tag depth presence factor) s =
          .next (s.answered rest ⟨tag, 8, .notInService, [depthByte, levelByte]⟩)) ∧
      (∀ r, d ≠ 0 → s.fru.slot = some r →
        exec (.returnLevel tag depth presence factor) s =
          .next (s.answered rest ⟨tag, 8, .staleReturn, [0, depthByte, levelByte, 1] ++ halfBytes r.serial⟩)) ∧
      (d ≠ 0 → s.fru.slot = none → depth.toNat ≠ d →
        exec (.returnLevel tag depth presence factor) s =
          .next (s.answered rest ⟨tag, 8, .staleReturn, [1, depthByte, levelByte, 0, 0, 0]⟩)) ∧
      (∀ (below : List Nat) (top : Nat), s.fru.saved = below ++ [top] → s.fru.slot = none → depth.toNat = d →
        (named = false →
          exec (.returnLevel tag depth presence factor) s =
            .next (({ s with fru := { s.fru with saved := below, level := top } } : State).answered rest
              ⟨tag, 8, .done, [BitVec.ofNat 8 below.length, BitVec.ofNat 8 top, 0, 0, 0]⟩)) ∧
        (∀ f : FactorNo, named = true → factor.toNat = f.val →
          exec (.returnLevel tag depth presence factor) s =
            .next (({ s with fru := { s.fru with
                saved := below
                level := top
                factors := s.fru.factors.set f ⟨false, 0, ⟨none, none, none, none⟩⟩ } } : State).answered rest
              ⟨tag, 8, .done,
                [BitVec.ofNat 8 below.length, BitVec.ofNat 8 top, 1, factor,
                  BitVec.ofNat 8 s.fru.factors[f].count]⟩))))

/-- REPORT_GATE (R97). -/
def Obligations.ReportGateSetsTheGate : Prop :=
  ∀ (s : State) (tag gate : Byte) (rest : List CommandFrame), s.Executes ⟨tag, 9, [gate]⟩ rest →
    (1 < gate.toNat →
      exec (.reportGate tag gate) s = .next (s.answered rest ⟨tag, 9, .badArgument, [gate]⟩)) ∧
    (gate.toNat ≤ 1 →
      exec (.reportGate tag gate) s =
        .next (({ s with fru := { s.fru with gate := if gate = 0 then .closed else .opened } } : State).answered rest
          ⟨tag, 9, .done, [gate, BitVec.ofNat 8 s.fru.level, BitVec.ofNat 8 s.fru.saved.length]⟩))

/-! ### Commands on the substitution list and the capture list -/

/-- SUBSTITUTE (R117 to R121): the four checks, then the append, the change of an entry's next change, or the
removal. `item` is the entry as the response carries it (R178, R181). That the nine bytes of the entry which a
NOT-LISTED answer does not carry are sent as 0 is the model's reading (notes/assumptions/10.md). -/
def Obligations.SubstituteChecksThenSetsTheChange : Prop :=
  ∀ (s : State) (tag channel form : Byte) (value : Half) (rest : List CommandFrame),
    s.Executes ⟨tag, 10, channel :: form :: halfBytes value⟩ rest →
    let list := s.ce.substitutions
    let arguments := channel :: form :: halfBytes value
    let run := exec (.substitute tag channel form value) s
    let item := fun e : SubstitutionEntry =>
      ([1] : List Byte) ++
        (match e.current with
          | none => [0, 0, 0, 0]
          | some (.force v) => 1 :: 0 :: halfBytes v
          | some (.hold v) => 1 :: 1 :: halfBytes v) ++
        (match e.next with
          | none => [0, 0, 0, 0]
          | some (.force v) => 1 :: 0 :: halfBytes v
          | some .hold => [1, 1, 0, 0]
          | some .remove => [1, 2, 0, 0])
    let done := fun (after : List SubstitutionEntry) (outcome : Byte) (entry : List Byte) =>
      run = .next (({ s with ce := { s.ce with substitutions := after } } : State).answered rest
        ⟨tag, 10, .done, arguments ++ [outcome] ++ entry ++ [BitVec.ofNat 8 after.length]⟩)
    ((31 < channel.toNat ∨ 2 < form.toNat) → run = .next (s.answered rest ⟨tag, 10, .badArgument, arguments⟩)) ∧
    ∀ c : Channel, channel.toNat = c.val →
      (form = 1 → s.ce.live[c].previous = none →
        run = .next (s.answered rest ⟨tag, 10, .noValue, [channel]⟩)) ∧
      (∀ change, (form = 0 ∧ change = .force value) ∨
          (form = 1 ∧ change = .hold ∧ s.ce.live[c].previous ≠ none) →
        ((∀ e ∈ list, e.channel ≠ c) →
          (8 ≤ list.length →
            run = .next (s.answered rest ⟨tag, 10, .listFull, [channel, BitVec.ofNat 8 list.length,
              BitVec.ofNat 8 (list.filter fun e => e.next == some .remove).length]⟩)) ∧
          (list.length ≤ 7 → done (list ++ [⟨c, none, some change⟩]) 0 (item ⟨c, none, some change⟩))) ∧
        (∀ below e above, list = below ++ e :: above → e.channel = c →
          (∀ x ∈ below, x.channel ≠ c) → (∀ x ∈ above, x.channel ≠ c) →
          done (below ++ { e with next := some change } :: above) 1 (item { e with next := some change }))) ∧
      (form = 2 →
        ((∀ e ∈ list, e.channel ≠ c) → done list 3 [0, 0, 0, 0, 0, 0, 0, 0, 0]) ∧
        (∀ below e above, list = below ++ e :: above → e.channel = c →
          (∀ x ∈ below, x.channel ≠ c) → (∀ x ∈ above, x.channel ≠ c) →
          done (below ++ { e with next := some .remove } :: above) 2 (item { e with next := some .remove })))

/-- READ_SUBSTITUTIONS (R127, R181). -/
def Obligations.ReadSubstitutionsListsEveryEntry : Prop :=
  ∀ (s : State) (tag : Byte) (rest : List CommandFrame), s.Executes ⟨tag, 11, []⟩ rest →
    exec (.readSubstitutions tag) s = .next (s.answered rest ⟨tag, 11, .done,
      [BitVec.ofNat 8 s.ce.substitutions.length] ++ s.ce.substitutions.flatMap fun e =>
        [BitVec.ofNat 8 e.channel.val] ++
          (match e.current with
            | none => [0, 0, 0, 0]
            | some (.force v) => 1 :: 0 :: halfBytes v
            | some (.hold v) => 1 :: 1 :: halfBytes v) ++
          (match e.next with
            | none => [0, 0, 0, 0]
            | some (.force v) => 1 :: 0 :: halfBytes v
            | some .hold => [1, 1, 0, 0]
            | some .remove => [1, 2, 0, 0])⟩)

/-- CAPTURE (R131, R132): the four checks in order, or a WAITING record and one reservation. -/
def Obligations.CaptureChecksThenAccepts : Prop :=
  ∀ (s : State) (tag : Byte) (set : Word) (limit : Byte) (rest : List CommandFrame),
    s.Executes ⟨tag, 12, wordBytes set ++ [limit]⟩ rest →
    let run := exec (.capture tag set limit) s
    ((set = 0 ∨ limit.toNat = 0 ∨ 64 < limit.toNat) →
      run = .next (s.answered rest ⟨tag, 12, .badArgument, wordBytes set ++ [limit]⟩)) ∧
    (set ≠ 0 → 1 ≤ limit.toNat → limit.toNat ≤ 64 →
      (∀ below r above, s.ce.captures = below ++ r :: above → r.tag = tag → (∀ x ∈ below, x.tag ≠ tag) →
        run = .next (s.answered rest ⟨tag, 12, .tagInUse,
          match r.phase with
          | .waiting => [tag, 0, 0]
          | .collecting k => [tag, 1, BitVec.ofNat 8 (r.limit - k)]⟩)) ∧
      ((∀ r ∈ s.ce.captures, r.tag ≠ tag) → 4 ≤ s.ce.captures.length →
        run = .next (s.answered rest ⟨tag, 12, .captureBusy,
          BitVec.ofNat 8 s.ce.captures.length :: s.ce.captures.map (·.tag)⟩)) ∧
      ((∀ r ∈ s.ce.captures, r.tag ≠ tag) → s.ce.captures.length ≤ 3 →
        run = .next { s.dequeued rest with
          ce := { s.ce with
            captures := s.ce.captures ++ [⟨tag, set, limit.toNat, .waiting, Vector.replicate 32 none⟩] }
          dlt := { s.dlt with reservations := s.dlt.reservations + 1 } }))

/-- CANCEL_CAPTURE (R137, R140): refused, or the record's CAPTURE-CANCELLED and then the command's own DONE; and the
layout of every capture completion (R137, R181). -/
def Obligations.CancelCaptureCompletesItsRecord : Prop :=
  let payload := fun (r : CaptureRecord) (examined : Nat) =>
    let set := (List.finRange 32).filter fun c => r.channels.getLsbD c.val
    wordBytes r.channels ++
      [BitVec.ofNat 8 r.limit, BitVec.ofNat 8 examined,
        BitVec.ofNat 8 (set.filter fun c => r.slots[c].isSome).length] ++
      set.flatMap fun c => BitVec.ofNat 8 c.val ::
        match r.slots[c] with
        | none => [0, 0, 0, 0, 0]
        | some x => [1] ++ halfBytes x.value ++ [x.sequence, if x.substituted then 1 else 0]
  (∀ (r : CaptureRecord) (code : ResponseCode) (examined : Nat),
    r.completion code examined = ⟨r.tag, 12, code, payload r examined⟩) ∧
  ∀ (s : State) (tag captureTag : Byte) (rest : List CommandFrame), s.Executes ⟨tag, 13, [captureTag]⟩ rest →
    ((∀ r ∈ s.ce.captures, r.tag ≠ captureTag) →
      exec (.cancelCapture tag captureTag) s =
        .next (s.answered rest ⟨tag, 13, .noSuchCapture, [captureTag]⟩)) ∧
    ∀ below r above, s.ce.captures = below ++ r :: above → r.tag = captureTag →
      (∀ x ∈ below, x.tag ≠ captureTag) →
      let examined : Nat := match r.phase with | .waiting => 0 | .collecting k => r.limit - k
      let phase : Byte := match r.phase with | .waiting => 0 | .collecting _ => 1
      exec (.cancelCapture tag captureTag) s = .next { s.dequeued rest with
        ce := { s.ce with captures := below ++ above }
        dlt := { s.dlt with
          responses := s.dlt.responses ++
            [⟨captureTag, 12, .captureCancelled, payload r examined⟩,
              ⟨tag, 13, .done, [captureTag, phase, BitVec.ofNat 8 examined]⟩]
          reservations := s.dlt.reservations - 1 } }

/-! ### Commands on several blocks -/

/-- READ_STATUS (R171, R172, R173, R178, R181): the items in their order and codes, read before any clear; flag 1
clears the sixteen counters and nothing else. -/
def Obligations.ReadStatusReportsThenClears : Prop :=
  ∀ (s : State) (tag flag : Byte) (rest : List CommandFrame), s.Executes ⟨tag, 14, [flag]⟩ rest →
    let optional := fun o : Option Byte => match o with | none => ([0, 0] : List Byte) | some b => [1, b]
    let a := s.alr
    let ac := s.alr.counters
    let dc := s.dlt.counters
    let lock : Byte := match a.lock with | .unlocked => 0 | .locked => 1
    let freshness : Byte := match a.freshness with | .never => 0 | .fresh => 1 | .stale => 2
    let forwarding : Byte := match s.ce.forwarding with | .off => 0 | .on => 1
    let gate : Byte := match s.fru.gate with | .closed => 0 | .opened => 1
    let link : Byte := match s.dlt.link with | .down => 0 | .up => 1
    let status : List Byte :=
      [lock, freshness] ++ optional a.expected ++ [BitVec.ofNat 8 a.excuse] ++
      halfBytes a.timeout ++ [if a.timer = .stopped then 0 else 1, BitVec.ofNat 8 a.ifq.length] ++
      wordBytes ac.accepted ++ wordBytes ac.checkFail ++ wordBytes ac.formatFail ++ wordBytes ac.late ++
      wordBytes ac.overrun ++ wordBytes ac.missed ++ wordBytes ac.staleDeclarations ++
      [forwarding] ++
      (match s.ce.commit with
        | none => [0, 0, 0, 0, 0]
        | some p => [1, 1, p.tag, 1, if p.suppressed then 1 else 0]) ++
      [BitVec.ofNat 8 s.ce.captures.length] ++
      (s.ce.captures.flatMap fun r =>
        [r.tag, (match r.phase with | .waiting => 0 | .collecting _ => 1), BitVec.ofNat 8 r.limit] ++
          optional (match r.phase with | .waiting => none | .collecting k => some (BitVec.ofNat 8 k)) ++
          [BitVec.ofNat 8 ((List.finRange 32).filter fun c =>
            r.channels.getLsbD c.val && r.slots[c].isSome).length]) ++
      wordBytes s.ce.forwarded ++ wordBytes s.ce.shed ++
      [gate, BitVec.ofNat 8 s.fru.level, BitVec.ofNat 8 s.fru.saved.length] ++
      s.fru.saved.map (BitVec.ofNat 8) ++
      (match s.fru.slot with | none => [0, 0, 0] | some r => 1 :: halfBytes r.serial) ++
      halfBytes s.fru.serial ++
      [link, BitVec.ofNat 8 s.dlt.credits,
        (match s.dlt.transmitting with
          | none => 0
          | some (.report _) => 1
          | some (.response _) => 2
          | some (.sample _) => 3),
        BitVec.ofNat 8 s.dlt.forwardQueue.length, BitVec.ofNat 8 s.dlt.responses.length,
        BitVec.ofNat 8 s.dlt.reservations] ++
      wordBytes dc.sampleStarted ++ wordBytes dc.reportStarted ++ wordBytes dc.responseStarted ++
      wordBytes dc.abandoned ++ wordBytes dc.creditDiscarded ++
      [BitVec.ofNat 8 rest.length] ++ wordBytes s.mx.checkFail ++ wordBytes s.mx.discarded
    (1 < flag.toNat → exec (.readStatus tag flag) s = .next (s.answered rest ⟨tag, 14, .badArgument, [flag]⟩)) ∧
    (flag = 0 → exec (.readStatus tag flag) s = .next (s.answered rest ⟨tag, 14, .done, status⟩)) ∧
    (flag = 1 →
      exec (.readStatus tag flag) s = .next (({ s with
        alr := { s.alr with counters := ⟨0, 0, 0, 0, 0, 0, 0⟩ }
        ce := { s.ce with forwarded := 0, shed := 0 }
        dlt := { s.dlt with counters := ⟨0, 0, 0, 0, 0⟩ }
        mx := { s.mx with checkFail := 0, discarded := 0 } } : State).answered rest ⟨tag, 14, .done, status⟩))

/-- SET_LINK (R18, R59, R174, with the codes of R178). -/
def Obligations.SetLinkSetsTimeoutAndMode : Prop :=
  ∀ (s : State) (tag : Byte) (timeout : Half) (mode : Byte) (rest : List CommandFrame),
    s.Executes ⟨tag, 15, halfBytes timeout ++ [mode]⟩ rest →
    (1 < mode.toNat →
      exec (.setLink tag timeout mode) s =
        .next (s.answered rest ⟨tag, 15, .badArgument, halfBytes timeout ++ [mode]⟩)) ∧
    (mode.toNat ≤ 1 →
      let timer : Timer := if s.alr.freshness = .fresh then
          (if timeout = 0 then .stopped else .running timeout.toNat)
        else s.alr.timer
      exec (.setLink tag timeout mode) s = .next (({ s with
        alr := { s.alr with timeout := timeout, timer := timer }
        ce := { s.ce with forwarding := if mode = 0 then .off else .on } } : State).answered rest
          ⟨tag, 15, .done, halfBytes timeout ++
            [mode, (match s.alr.freshness with | .never => 0 | .fresh => 1 | .stale => 2),
              if timer = .stopped then 0 else 1]⟩))

/-- RESYNC (R11, R175). -/
def Obligations.ResyncClearsTheTracker : Prop :=
  ∀ (s : State) (tag : Byte) (rest : List CommandFrame), s.Executes ⟨tag, 16, []⟩ rest →
    exec (.resync tag) s =
      .next (({ s with alr := { s.alr with expected := none, excuse := 0 } } : State).answered rest
        ⟨tag, 16, .done,
          (match s.alr.expected with | none => [0, 0] | some e => [1, e]) ++ [BitVec.ofNat 8 s.alr.excuse]⟩)

/-- R167. -/
def Obligations.UnknownCommandIsAnswered : Prop :=
  ∀ (s : State) (tag code : Byte) (arguments : List Byte) (rest : List CommandFrame),
    (code.toNat = 0 ∨ 16 < code.toNat) → s.Executes ⟨tag, code, arguments⟩ rest →
    exec (.unknownCommand tag code arguments) s = .next (s.answered rest ⟨tag, code, .unknownCommand, []⟩)

/-- A command executes only at the head of the queue with a free place (R156, R163). That a row naming another
execution changes nothing is the model's reading (notes/assumptions/3.md). -/
def Obligations.CommandsWaitForTheirTurnAndPlace : Prop :=
  ∀ (i : Instr) (f : CommandFrame) (s : State), commandOf i = some f → s.porst = .released →
    (s.mx.queue.head? ≠ some f ∨ 6 ≤ s.dlt.responses.length + s.dlt.reservations) → exec i s = .next s

/-- One execution takes its frame from the queue, appends responses and adds exactly 1 to entries plus reservations
(R156, R162, R164); the premise is the invariant of the response queue. -/
def Obligations.ExecutionTakesOnePlace : Prop :=
  ∀ (i : Instr) (f : CommandFrame) (rest : List CommandFrame) (s : State),
    commandOf i = some f → i.wellFormed = true → s.Executes f rest → s.ResponsesOk →
    ∃ t, exec i s = .next t ∧ t.mx.queue = rest ∧ t.pending = s.pending ∧ t.porst = .released ∧
      t.handed = s.handed ∧ t.dlt.link = s.dlt.link ∧ t.dlt.credits = s.dlt.credits ∧
      t.dlt.transmitting = s.dlt.transmitting ∧ t.dlt.forwardQueue = s.dlt.forwardQueue ∧
      t.dlt.responses.length + t.dlt.reservations = s.dlt.responses.length + s.dlt.reservations + 1 ∧
      ∃ new, t.dlt.responses = s.dlt.responses ++ new

/-- A response whose code is one of the eleven refusals of R165 answers a command that changed no state other than the
response queue; the frame itself has left the command queue (R162). -/
def Obligations.RefusalsChangeOnlyTheResponseQueue : Prop :=
  ∀ (i : Instr) (f : CommandFrame) (rest : List CommandFrame) (s t : State) (r : Response),
    commandOf i = some f → s.Executes f rest → exec i s = .next t →
    t.dlt.responses = s.dlt.responses ++ [r] →
    r.code ∈ ([.badArgument, .badEntry, .commitPending, .notInService, .staleReturn, .listFull, .noValue, .captureBusy,
      .tagInUse, .noSuchCapture, .unknownCommand] : List ResponseCode) →
    t = s.answered rest r

/-! ### The step -/

/-- A step with an event at the front of the queue is that event on the state with the queue's rest. -/
def Obligations.StepTakesTheFrontEvent : Prop :=
  ∀ (c : Instr) (rest : List Instr) (s : State),
    step { s with pending := c :: rest } = exec c { s with pending := rest }

/-! ### Invariants that every step keeps -/

/-- The ALR within R1, R10, R13 and R15, and every queued frame with 1 to 16 entries. -/
def Obligations.EveryStepKeepsTheIngressOk : Prop :=
  ∀ s t : State, s.AlrOk ∧ s.FramesOk → step s = .next t → t.AlrOk ∧ t.FramesOk

/-- Every entry of both banks passes validation (R29), and every run count stays within the counts of the ACTIVE
entry (R36). -/
def Obligations.EveryStepKeepsTheTableOk : Prop :=
  ∀ s t : State, s.TableOk → step s = .next t → t.TableOk

/-- The substitution list (R115, R116, R123) and the capture list (R128, R129). -/
def Obligations.EveryStepKeepsTheListsOk : Prop :=
  ∀ s t : State, s.SubstitutionsOk ∧ s.CapturesOk → step s = .next t → t.SubstitutionsOk ∧ t.CapturesOk

/-- Credits and queues within their capacities (R144, R149, R154, R160), and entries plus reservations within 6 with
every reservation held by an operation (R130, R155, R156). -/
def Obligations.EveryStepKeepsTheQueuesOk : Prop :=
  ∀ s t : State, s.QueuesOk ∧ s.ResponsesOk → step s = .next t → t.QueuesOk ∧ t.ResponsesOk

/-- The factor records (R77, R78), the raises on their way (R80) and the level stack with the slot (R94, R95). -/
def Obligations.EveryStepKeepsTheReportUnitOk : Prop :=
  ∀ s t : State, s.FactorsOk ∧ s.SourcesOk ∧ s.StackOk → step s = .next t →
    t.FactorsOk ∧ t.SourcesOk ∧ t.StackOk

/-- What holds while the D-link is DOWN (R147) and while PORST is asserted (R182), and the lengths of the queued
command frames (R161). -/
def Obligations.EveryStepKeepsTheLinksOk : Prop :=
  ∀ s t : State, s.DownOk ∧ s.PorstOk ∧ s.CommandsOk → step s = .next t → t.DownOk ∧ t.PorstOk ∧ t.CommandsOk

/-- Every invariant holds right after power-on reset. -/
def Obligations.PowerOnResetMeetsEveryInvariant : Prop :=
  State.reset.AlrOk ∧ State.reset.FramesOk ∧ State.reset.TableOk ∧ State.reset.SubstitutionsOk ∧
  State.reset.CapturesOk ∧ State.reset.QueuesOk ∧ State.reset.ResponsesOk ∧ State.reset.FactorsOk ∧
  State.reset.SourcesOk ∧ State.reset.StackOk ∧ State.reset.DownOk ∧ State.reset.PorstOk ∧
  State.reset.CommandsOk

/-! ### Frames read back -/

/-- A received frame's check is good when its last two bytes are the check over the rest (R176; that a frame of fewer
than 2 bytes has none is notes/assumptions/9.md). Every well-formed command, laid out as a command frame with its check,
is read back with every operand at every value (R161, R176, R179); so is every sample frame of 1 to 16 entries (R177). -/
def Obligations.ReceivedFramesReadBack : Prop :=
  (∀ frame : List Byte,
    checkGood frame = true ↔ ∃ body : List Byte, frame = body ++ halfBytes (crc body)) ∧
  (∀ (i : Instr) (f : CommandFrame), i.wellFormed = true → commandOf i = some f →
    let body : List Byte := [65, f.tag, f.code] ++ f.arguments
    readCommandFrame (body ++ halfBytes (crc body)) = some f ∧ f.row = i) ∧
  ∀ (q : Byte) (ts : Word) (xs : List Sample), 1 ≤ xs.length → xs.length ≤ 16 →
    let body : List Byte := [17, q] ++ wordBytes ts ++ [BitVec.ofNat 8 xs.length] ++
      xs.flatMap fun x => BitVec.ofNat 8 x.channel.val :: halfBytes x.value
    readArrival (body ++ halfBytes (crc body)) = .good q ts xs

/-- The byte layouts of the frames sent (R176 to R179): the order of the bytes of a field, the check bit by bit, and
report, forwarded sample and response frames with the codes of the freshness and of the seventeen responses. That the
bits of a report's first-cause presence and group raised flags that no rule names, 4 to 7, are sent as 0 is the model's
choice (notes/assumptions/18.md). -/
def Obligations.OutboundFrameLayouts : Prop :=
  (∀ h : Half, halfBytes h = [BitVec.ofNat 8 (h.toNat / 256), BitVec.ofNat 8 h.toNat]) ∧
  (∀ w : Word, wordBytes w = [BitVec.ofNat 8 (w.toNat / 16777216), BitVec.ofNat 8 (w.toNat / 65536),
    BitVec.ofNat 8 (w.toNat / 256), BitVec.ofNat 8 w.toNat]) ∧
  crc [] = 65535 ∧
  (∀ (bytes : List Byte) (b : Byte),
    let bit := fun r : Half => if r.getLsbD 15 then (r <<< 1) ^^^ 0x1021 else r <<< 1
    crc (bytes ++ [b]) =
      bit (bit (bit (bit (bit (bit (bit (bit (crc bytes ^^^ BitVec.ofNat 16 (256 * b.toNat)))))))))) ∧
  (∀ r : Report,
    let presence : Byte := (if r.cause.sequence.isSome then 1 else 0) +
      (if r.cause.timestamp.isSome then 2 else 0) + (if r.cause.channel.isSome then 4 else 0) +
      (if r.cause.value.isSome then 8 else 0)
    let freshness : Byte := match r.freshness with | .never => 0 | .fresh => 1 | .stale => 2
    let body : List Byte := [33] ++ halfBytes r.serial ++
      [BitVec.ofNat 8 r.factor.val, BitVec.ofNat 8 r.level, BitVec.ofNat 8 r.depth, BitVec.ofNat 8 r.count,
        presence, r.cause.sequence.getD 0] ++ wordBytes (r.cause.timestamp.getD 0) ++
      [BitVec.ofNat 8 ((r.cause.channel.map (·.val)).getD 0)] ++ halfBytes (r.cause.value.getD 0) ++
      [BitVec.ofNat 8 r.groupRaised.toNat, freshness]
    r.bytes = body ++ halfBytes (crc body) ∧ r.bytes.length = 20) ∧
  (∀ f : OutputFrame,
    let body : List Byte := [18, f.sequence] ++ wordBytes f.timestamp ++
      [if f.gapBefore then 1 else 0, BitVec.ofNat 8 f.samples.length] ++
      f.samples.flatMap fun x =>
        BitVec.ofNat 8 (x.channel.val + if x.substituted then 128 else 0) :: halfBytes x.value
    f.bytes = body ++ halfBytes (crc body) ∧ f.bytes.length = 10 + 3 * f.samples.length) ∧
  (∀ r : Response,
    let code : Byte := match r.code with
      | .done => 0
      | .badArgument => 1
      | .badEntry => 2
      | .commitPending => 3
      | .notInService => 4
      | .staleReturn => 5
      | .listFull => 6
      | .noValue => 7
      | .captureBusy => 8
      | .tagInUse => 9
      | .noSuchCapture => 10
      | .unknownCommand => 11
      | .commitDone => 12
      | .captureComplete => 13
      | .captureTimeout => 14
      | .captureStale => 15
      | .captureCancelled => 16
    let body : List Byte := [49, r.tag, r.command, code, BitVec.ofNat 8 r.payload.length] ++ r.payload
    r.bytes = body ++ halfBytes (crc body) ∧ r.bytes.length = 7 + r.payload.length)

end
end

