-- ==== Sys2Proof/Laws/Flags.lean ====
section
/-! SUPPORT. When a block acts, as propositions: one lemma for each test of `Machine/Flags.lean` that an event
makes first, and which factor a selection chooses. -/

namespace Sys2Proof.Machine

/-- The CE is not held (R39). -/
theorem State.ceFree_iff (s : State) :
    s.ceFree = true ↔ s.dlt.forwardQueue.length ≤ 7 ∨ s.ce.forwarding = .off ∨ s.dlt.link = .down := by
  unfold State.ceFree Config.forwardCapacity
  simp only [Bool.or_eq_true, beq_iff_eq, or_assoc]
  rw [decide_eq_true_iff]
  simp only [Nat.lt_succ_iff]

/-- The first three conditions of a selection (R99). -/
theorem State.selectionOpen_iff (s : State) :
    s.selectionOpen = true ↔ s.fru.gate = .opened ∧ s.fru.slot = none ∧ s.dlt.link = .up := by
  unfold State.selectionOpen
  simp only [Bool.and_eq_true, beq_iff_eq, Option.isNone_iff_eq_none, and_assoc]

/-- The first three conditions of a transmission start (R150). -/
theorem State.laneFree_iff (s : State) :
    s.laneFree = true ↔ s.dlt.link = .up ∧ s.dlt.transmitting = none ∧ 1 ≤ s.dlt.credits := by
  unfold State.laneFree
  simp only [Bool.and_eq_true, beq_iff_eq, Option.isNone_iff_eq_none, and_assoc, decide_eq_true_eq]

/-! ### Counts of channels (R34, R137) -/

/-- The count of differing channels as the length of their list. -/
theorem Ce.differing_eq (ce : Ce) :
    ce.differing = ((List.finRange 32).filter fun c => decide (ce.shadow[c] ≠ ce.active[c])).length := by
  unfold Ce.differing allChannels
  rw [List.countP_eq_length_filter]
  congr 2
  funext c
  rw [Bool.eq_iff_iff, decide_eq_true_iff]
  simp [Ce.differs]

/-- The number of slots present, as the length of a list (R137). -/
theorem CaptureRecord.collected_eq (r : CaptureRecord) :
    r.collected = ((List.finRange 32).filter fun c => r.channels.getLsbD c.val && r.slots[c].isSome).length := by
  unfold CaptureRecord.collected allChannels
  rw [List.countP_eq_length_filter]
  rfl

/-! ### The first candidate in report order (R87, R99) -/

/-- No factor has an effective level above 4. -/
theorem Fru.effectiveLevel_le (fru : Fru) (f : FactorNo) : fru.effectiveLevel f ≤ 4 := by
  unfold Fru.effectiveLevel
  split <;> omega

/-- None is chosen exactly when no candidate exceeds L. -/
theorem Fru.chosen_eq_none (fru : Fru) :
    fru.chosen = none ↔ ∀ f, fru.candidate f = true → fru.effectiveLevel f ≤ fru.level := by
  unfold Fru.chosen
  rw [List.findSome?_eq_none_iff]
  constructor
  · intro h f hf
    by_contra hlt
    have h4 := fru.effectiveLevel_le f
    have := h (fru.effectiveLevel f) (by simp; omega)
    rw [List.find?_eq_none] at this
    have := this f (List.mem_finRange f)
    simp [hf] at this
    omega
  · intro h v hv
    rw [List.find?_eq_none]
    intro f _ hc
    simp at hc
    have := h f hc.1.1
    omega

/-- The candidate above L that comes before every other such candidate is the one chosen. -/
theorem Fru.chosen_eq_some (fru : Fru) (f : FactorNo) (hc : fru.candidate f = true)
    (hl : fru.level < fru.effectiveLevel f)
    (hb : ∀ h : FactorNo, fru.candidate h = true → fru.level < fru.effectiveLevel h → h ≠ f →
      fru.effectiveLevel h < fru.effectiveLevel f ∨ (fru.effectiveLevel h = fru.effectiveLevel f ∧ f < h)) : fru.chosen = some f := by
  cases hch : fru.chosen with
  | none =>
    have := fru.chosen_eq_none.mp hch f hc
    omega
  | some h =>
    by_contra hne
    have hne : h ≠ f := fun e => hne (by rw [e])
    unfold Fru.chosen at hch
    rw [List.findSome?_eq_some_iff] at hch
    obtain ⟨l1, v, l2, hl12, hfind, hbefore⟩ := hch
    have hp := List.find?_some hfind
    simp at hp
    obtain ⟨⟨h1, h2⟩, h3⟩ := hp
    have h4 := fru.effectiveLevel_le f
    rcases hb h h1 (by omega) hne with hx | ⟨hx, hx2⟩
    · have hm : fru.effectiveLevel f ∈ l1 := by
        rcases l1 with _ | ⟨a, _ | ⟨b, _ | ⟨c, _ | ⟨d, l1⟩⟩⟩⟩ <;> simp at hl12 ⊢ <;> omega
      have := hbefore _ hm
      rw [List.find?_eq_none] at this
      have := this f (List.mem_finRange f)
      simp [hc] at this
      omega
    · rw [List.find?_eq_some_iff_append] at hfind
      obtain ⟨_, as, bs, hsplit, hall⟩ := hfind
      have hsorted : (List.finRange 32).Pairwise (· < ·) := List.pairwise_lt_finRange 32
      have hmem : f ∈ as := by
        have : f ∈ as ++ h :: bs := by rw [← hsplit]; exact List.mem_finRange f
        rcases List.mem_append.mp this with hh | hh
        · exact hh
        · rw [hsplit] at hsorted
          have := (List.pairwise_append.mp hsorted).2.1
          rcases List.mem_cons.mp hh with hh | hh
          · exact absurd hh.symm hne
          · have := (List.pairwise_cons.mp this).1 f hh; exact absurd hx2 (by simp only [Fin.lt_def] at *; omega)
      have := hall f hmem
      simp [hc, hx ▸ h2] at this
      omega

end Sys2Proof.Machine
end

