-- ==== Sys2Proof/Laws/State.lean ====
section
/-! SUPPORT. One lemma per field per update of the state, true by rfl, so that no later proof unfolds a record
update: the six block updates, and the updates of the response queue. -/

namespace Sys2Proof.Machine

@[simp] theorem State.onAlr_porst (f : Alr → Alr) (s : State) : (s.onAlr f).porst = s.porst := rfl
@[simp] theorem State.onAlr_alr (f : Alr → Alr) (s : State) : (s.onAlr f).alr = f s.alr := rfl
@[simp] theorem State.onAlr_ce (f : Alr → Alr) (s : State) : (s.onAlr f).ce = s.ce := rfl
@[simp] theorem State.onAlr_fru (f : Alr → Alr) (s : State) : (s.onAlr f).fru = s.fru := rfl
@[simp] theorem State.onAlr_dlt (f : Alr → Alr) (s : State) : (s.onAlr f).dlt = s.dlt := rfl
@[simp] theorem State.onAlr_mx (f : Alr → Alr) (s : State) : (s.onAlr f).mx = s.mx := rfl
@[simp] theorem State.onAlr_handed (f : Alr → Alr) (s : State) : (s.onAlr f).handed = s.handed := rfl
@[simp] theorem State.onAlr_pending (f : Alr → Alr) (s : State) : (s.onAlr f).pending = s.pending := rfl

@[simp] theorem State.onCe_porst (f : Ce → Ce) (s : State) : (s.onCe f).porst = s.porst := rfl
@[simp] theorem State.onCe_alr (f : Ce → Ce) (s : State) : (s.onCe f).alr = s.alr := rfl
@[simp] theorem State.onCe_ce (f : Ce → Ce) (s : State) : (s.onCe f).ce = f s.ce := rfl
@[simp] theorem State.onCe_fru (f : Ce → Ce) (s : State) : (s.onCe f).fru = s.fru := rfl
@[simp] theorem State.onCe_dlt (f : Ce → Ce) (s : State) : (s.onCe f).dlt = s.dlt := rfl
@[simp] theorem State.onCe_mx (f : Ce → Ce) (s : State) : (s.onCe f).mx = s.mx := rfl
@[simp] theorem State.onCe_handed (f : Ce → Ce) (s : State) : (s.onCe f).handed = s.handed := rfl
@[simp] theorem State.onCe_pending (f : Ce → Ce) (s : State) : (s.onCe f).pending = s.pending := rfl

@[simp] theorem State.onFru_porst (f : Fru → Fru) (s : State) : (s.onFru f).porst = s.porst := rfl
@[simp] theorem State.onFru_alr (f : Fru → Fru) (s : State) : (s.onFru f).alr = s.alr := rfl
@[simp] theorem State.onFru_ce (f : Fru → Fru) (s : State) : (s.onFru f).ce = s.ce := rfl
@[simp] theorem State.onFru_fru (f : Fru → Fru) (s : State) : (s.onFru f).fru = f s.fru := rfl
@[simp] theorem State.onFru_dlt (f : Fru → Fru) (s : State) : (s.onFru f).dlt = s.dlt := rfl
@[simp] theorem State.onFru_mx (f : Fru → Fru) (s : State) : (s.onFru f).mx = s.mx := rfl
@[simp] theorem State.onFru_handed (f : Fru → Fru) (s : State) : (s.onFru f).handed = s.handed := rfl
@[simp] theorem State.onFru_pending (f : Fru → Fru) (s : State) : (s.onFru f).pending = s.pending := rfl

@[simp] theorem State.onDlt_porst (f : Dlt → Dlt) (s : State) : (s.onDlt f).porst = s.porst := rfl
@[simp] theorem State.onDlt_alr (f : Dlt → Dlt) (s : State) : (s.onDlt f).alr = s.alr := rfl
@[simp] theorem State.onDlt_ce (f : Dlt → Dlt) (s : State) : (s.onDlt f).ce = s.ce := rfl
@[simp] theorem State.onDlt_fru (f : Dlt → Dlt) (s : State) : (s.onDlt f).fru = s.fru := rfl
@[simp] theorem State.onDlt_dlt (f : Dlt → Dlt) (s : State) : (s.onDlt f).dlt = f s.dlt := rfl
@[simp] theorem State.onDlt_mx (f : Dlt → Dlt) (s : State) : (s.onDlt f).mx = s.mx := rfl
@[simp] theorem State.onDlt_handed (f : Dlt → Dlt) (s : State) : (s.onDlt f).handed = s.handed := rfl
@[simp] theorem State.onDlt_pending (f : Dlt → Dlt) (s : State) : (s.onDlt f).pending = s.pending := rfl

@[simp] theorem State.onMx_porst (f : Mx → Mx) (s : State) : (s.onMx f).porst = s.porst := rfl
@[simp] theorem State.onMx_alr (f : Mx → Mx) (s : State) : (s.onMx f).alr = s.alr := rfl
@[simp] theorem State.onMx_ce (f : Mx → Mx) (s : State) : (s.onMx f).ce = s.ce := rfl
@[simp] theorem State.onMx_fru (f : Mx → Mx) (s : State) : (s.onMx f).fru = s.fru := rfl
@[simp] theorem State.onMx_dlt (f : Mx → Mx) (s : State) : (s.onMx f).dlt = s.dlt := rfl
@[simp] theorem State.onMx_mx (f : Mx → Mx) (s : State) : (s.onMx f).mx = f s.mx := rfl
@[simp] theorem State.onMx_handed (f : Mx → Mx) (s : State) : (s.onMx f).handed = s.handed := rfl
@[simp] theorem State.onMx_pending (f : Mx → Mx) (s : State) : (s.onMx f).pending = s.pending := rfl

@[simp] theorem State.onHanded_porst (f : Handed → Handed) (s : State) : (s.onHanded f).porst = s.porst := rfl
@[simp] theorem State.onHanded_alr (f : Handed → Handed) (s : State) : (s.onHanded f).alr = s.alr := rfl
@[simp] theorem State.onHanded_ce (f : Handed → Handed) (s : State) : (s.onHanded f).ce = s.ce := rfl
@[simp] theorem State.onHanded_fru (f : Handed → Handed) (s : State) : (s.onHanded f).fru = s.fru := rfl
@[simp] theorem State.onHanded_dlt (f : Handed → Handed) (s : State) : (s.onHanded f).dlt = s.dlt := rfl
@[simp] theorem State.onHanded_mx (f : Handed → Handed) (s : State) : (s.onHanded f).mx = s.mx := rfl
@[simp] theorem State.onHanded_handed (f : Handed → Handed) (s : State) : (s.onHanded f).handed = f s.handed := rfl
@[simp] theorem State.onHanded_pending (f : Handed → Handed) (s : State) : (s.onHanded f).pending = s.pending := rfl

@[simp] theorem Dlt.append_link (r : Response) (d : Dlt) : (d.append r).link = d.link := rfl
@[simp] theorem Dlt.append_credits (r : Response) (d : Dlt) : (d.append r).credits = d.credits := rfl
@[simp] theorem Dlt.append_transmitting (r : Response) (d : Dlt) : (d.append r).transmitting = d.transmitting := rfl
@[simp] theorem Dlt.append_forwardQueue (r : Response) (d : Dlt) : (d.append r).forwardQueue = d.forwardQueue := rfl
@[simp] theorem Dlt.append_responses (r : Response) (d : Dlt) : (d.append r).responses = d.responses ++ [r] := rfl
@[simp] theorem Dlt.append_reservations (r : Response) (d : Dlt) : (d.append r).reservations = d.reservations := rfl
@[simp] theorem Dlt.append_counters (r : Response) (d : Dlt) : (d.append r).counters = d.counters := rfl

@[simp] theorem Dlt.convert_link (rs : List Response) (d : Dlt) : (d.convert rs).link = d.link := rfl
@[simp] theorem Dlt.convert_credits (rs : List Response) (d : Dlt) : (d.convert rs).credits = d.credits := rfl
@[simp] theorem Dlt.convert_transmitting (rs : List Response) (d : Dlt) : (d.convert rs).transmitting = d.transmitting := rfl
@[simp] theorem Dlt.convert_forwardQueue (rs : List Response) (d : Dlt) : (d.convert rs).forwardQueue = d.forwardQueue := rfl
@[simp] theorem Dlt.convert_responses (rs : List Response) (d : Dlt) : (d.convert rs).responses = d.responses ++ rs := rfl
@[simp] theorem Dlt.convert_reservations (rs : List Response) (d : Dlt) : (d.convert rs).reservations = d.reservations - rs.length := rfl
@[simp] theorem Dlt.convert_counters (rs : List Response) (d : Dlt) : (d.convert rs).counters = d.counters := rfl

@[simp] theorem Dlt.reserve_link (d : Dlt) : (d.reserve).link = d.link := rfl
@[simp] theorem Dlt.reserve_credits (d : Dlt) : (d.reserve).credits = d.credits := rfl
@[simp] theorem Dlt.reserve_transmitting (d : Dlt) : (d.reserve).transmitting = d.transmitting := rfl
@[simp] theorem Dlt.reserve_forwardQueue (d : Dlt) : (d.reserve).forwardQueue = d.forwardQueue := rfl
@[simp] theorem Dlt.reserve_responses (d : Dlt) : (d.reserve).responses = d.responses := rfl
@[simp] theorem Dlt.reserve_reservations (d : Dlt) : (d.reserve).reservations = d.reservations + 1 := rfl
@[simp] theorem Dlt.reserve_counters (d : Dlt) : (d.reserve).counters = d.counters := rfl

end Sys2Proof.Machine
end

