-- ==== Sys2Proof/Laws/Ops.lean ====
section
/-! SUPPORT. The shared operations, each with one lemma that says what it can do: the gate of PORST, the execution of
a command, the answers of a command, the step. Later proofs cite these in place of unfolding. -/

namespace Sys2Proof.Machine

/-! ### The gate of PORST -/

@[simp] theorem State.taking_released {s : State} (f : State → State) (h : s.porst = .released) :
    s.taking f = .next (f s) := by simp [State.taking, h]

@[simp] theorem State.taking_asserted {s : State} (f : State → State) (h : s.porst = .asserted) :
    s.taking f = .next s := by simp [State.taking, h]

/-- Either PORST is asserted and the state stands, or the operation acts. -/
theorem State.taking_next {s t : State} {f : State → State} (h : s.taking f = .next t) :
    (s.porst = .asserted ∧ t = s) ∨ (s.porst = .released ∧ t = f s) := by
  cases hp : s.porst <;> simp [State.taking, hp] at h <;> simp [h]

/-! ### Executions -/

/-- A free place is a sum of entries and reservations of 5 or less (R156). -/
theorem Dlt.freePlace_iff (d : Dlt) : d.freePlace = true ↔ d.responses.length + d.reservations ≤ 5 := by
  unfold Dlt.freePlace Config.responseCapacity
  rw [decide_eq_true_iff]
  omega

/-- An execution at its turn acts on the state without its frame. -/
theorem State.execute_eq {s : State} {f : CommandFrame} {rest : List CommandFrame} (h : s.Executes f rest)
    (act : State → State) : s.execute f act = act (s.dequeued rest) := by
  obtain ⟨-, hq, hr⟩ := h
  have hp : s.dlt.freePlace = true := s.dlt.freePlace_iff.mpr hr
  simp [State.execute, hq, hp, State.dequeued, State.onMx]

/-- What an execution can do: nothing, or its act at its turn. -/
theorem State.execute_cases (s : State) (f : CommandFrame) (act : State → State) :
    s.execute f act = s ∨
      ∃ rest, s.mx.queue = f :: rest ∧ s.dlt.responses.length + s.dlt.reservations ≤ 5 ∧
        s.execute f act = act (s.dequeued rest) := by
  unfold State.execute
  split
  · exact .inl rfl
  next head rest hq =>
    split
    next hg =>
      right
      simp only [Bool.and_eq_true, beq_iff_eq] at hg
      exact ⟨rest, by rw [hq, hg.2], s.dlt.freePlace_iff.mp hg.1, rfl⟩
    · exact .inl rfl

/-- An execution out of its turn, or without a free place, changes nothing. -/
theorem State.execute_waits {s : State} {f : CommandFrame} (act : State → State)
    (h : s.mx.queue.head? ≠ some f ∨ 6 ≤ s.dlt.responses.length + s.dlt.reservations) : s.execute f act = s := by
  rcases s.execute_cases f act with h' | ⟨rest, hq, hr, -⟩
  · exact h'
  · rcases h with h | h
    · simp [hq] at h
    · omega

/-! ### Answers -/

theorem State.respond_dequeued (s : State) (rest : List CommandFrame) (f : CommandFrame) (code : ResponseCode)
    (payload : List Byte) :
    (s.dequeued rest).respond f code payload = s.answered rest ⟨f.tag, f.code, code, payload⟩ := rfl

theorem State.badArgument_dequeued (s : State) (rest : List CommandFrame) (f : CommandFrame) :
    (s.dequeued rest).badArgument f = s.answered rest ⟨f.tag, f.code, .badArgument, f.arguments⟩ := rfl

theorem State.commitPending_dequeued (s : State) (rest : List CommandFrame) (f : CommandFrame) (p : PendingCommit) :
    (s.dequeued rest).commitPending f p = s.answered rest ⟨f.tag, f.code, .commitPending, [p.tag]⟩ := rfl

@[simp] theorem State.respond_porst (f : CommandFrame) (code : ResponseCode) (payload : List Byte) (s : State) :
    (s.respond f code payload).porst = s.porst := rfl
@[simp] theorem State.respond_alr (f : CommandFrame) (code : ResponseCode) (payload : List Byte) (s : State) :
    (s.respond f code payload).alr = s.alr := rfl
@[simp] theorem State.respond_ce (f : CommandFrame) (code : ResponseCode) (payload : List Byte) (s : State) :
    (s.respond f code payload).ce = s.ce := rfl
@[simp] theorem State.respond_fru (f : CommandFrame) (code : ResponseCode) (payload : List Byte) (s : State) :
    (s.respond f code payload).fru = s.fru := rfl
@[simp] theorem State.respond_dlt (f : CommandFrame) (code : ResponseCode) (payload : List Byte) (s : State) :
    (s.respond f code payload).dlt = s.dlt.append ⟨f.tag, f.code, code, payload⟩ := rfl
@[simp] theorem State.respond_mx (f : CommandFrame) (code : ResponseCode) (payload : List Byte) (s : State) :
    (s.respond f code payload).mx = s.mx := rfl
@[simp] theorem State.respond_handed (f : CommandFrame) (code : ResponseCode) (payload : List Byte) (s : State) :
    (s.respond f code payload).handed = s.handed := rfl
@[simp] theorem State.respond_pending (f : CommandFrame) (code : ResponseCode) (payload : List Byte) (s : State) :
    (s.respond f code payload).pending = s.pending := rfl

/-! ### Declarations and periods -/

theorem State.declareStale_eq (s : State) : s.declareStale = s.declared := rfl

/-- What a period of the time base can do. -/
theorem State.period_cases (s : State) :
    s.period = s ∨ (∃ n, s.alr.timer = .running n ∧ n ≤ 1 ∧ s.period = s.declared) ∨
      ∃ n, s.alr.timer = .running n ∧ 2 ≤ n ∧
        s.period = { s with alr := { s.alr with timer := .running (n - 1) } } := by
  unfold State.period
  split
  · split
    · exact .inl rfl
    next n hn =>
      split
      next h => exact .inr (.inl ⟨n, hn, h, rfl⟩)
      next h => exact .inr (.inr ⟨n, hn, by omega, rfl⟩)
  · exact .inl rfl

/-! ### Commit -/

@[simp] theorem Ce.applyCommit_active (ce : Ce) : ce.applyCommit.active = ce.shadow := rfl
@[simp] theorem Ce.applyCommit_shadow (ce : Ce) : ce.applyCommit.shadow = ce.shadow := rfl
@[simp] theorem Ce.applyCommit_commit (ce : Ce) : ce.applyCommit.commit = none := rfl
@[simp] theorem Ce.applyCommit_captures (ce : Ce) : ce.applyCommit.captures = ce.captures := rfl
@[simp] theorem Ce.applyCommit_substitutions (ce : Ce) : ce.applyCommit.substitutions = ce.substitutions := rfl

/-- The live state of a channel after an application (R67). -/
theorem Ce.applyCommit_live (ce : Ce) (c : Channel) :
    ce.applyCommit.live[c] =
      if ce.shadow[c] = ce.active[c] then ce.live[c] else { ce.live[c] with state := .clear, run := 0 } := by
  by_cases h : ce.shadow[c] = ce.active[c] <;> rw [Fin.getElem_fin, Fin.getElem_fin] at h <;>
    simp [Ce.applyCommit, Ce.differs, Live.restart, h]

/-- An application on an occasion: nothing without a pending commit; else the commit, and the response unless it is
suppressed. -/
theorem State.applyPending_cases (occasion : Occasion) (first : Option Byte) (s : State) :
    (s.ce.commit = none ∧ s.applyPending occasion first = s) ∨
    (∃ tag, s.ce.commit = some ⟨tag, true⟩ ∧ s.applyPending occasion first = s.onCe Ce.applyCommit) ∨
    ∃ tag, s.ce.commit = some ⟨tag, false⟩ ∧ s.applyPending occasion first =
      (s.onCe Ce.applyCommit).onDlt
        (Dlt.convert [⟨tag, 4, .commitDone, commitDonePayload occasion first s.ce.differing⟩]) := by
  unfold State.applyPending
  split
  next h => exact .inl ⟨h, rfl⟩
  next p h =>
    obtain ⟨tag, suppressed⟩ := p
    cases suppressed
    · exact .inr (.inr ⟨tag, h, rfl⟩)
    · exact .inr (.inl ⟨tag, h, rfl⟩)

end Sys2Proof.Machine
end

