-- ==== Sys2Proof/Laws/Boundary.lean ====
section
/-! SUPPORT. A frame boundary and a declaration field by field: what an application of a commit, a disposal and the
eight stages leave in each field of the state, so that no later proof unfolds a stage. -/

namespace Sys2Proof.Machine

/-! ### An application on an occasion -/

/-- What an application leaves everywhere but in the banks, the live state and the response queue. -/
theorem State.applyPending_frame (occasion : Occasion) (first : Option Byte) (s : State) :
    ∃ ce dlt, s.applyPending occasion first = { s with ce := ce, dlt := dlt } ∧
      ce.shadow = s.ce.shadow ∧ ce.forwarding = s.ce.forwarding ∧ ce.forwarded = s.ce.forwarded ∧
      ce.shed = s.ce.shed ∧ ce.commit = none ∧ ce.substitutions = s.ce.substitutions ∧
      ce.captures = s.ce.captures ∧ dlt.link = s.dlt.link ∧ dlt.credits = s.dlt.credits ∧
      dlt.transmitting = s.dlt.transmitting ∧ dlt.forwardQueue = s.dlt.forwardQueue ∧
      dlt.counters = s.dlt.counters := by
  rcases s.applyPending_cases occasion first with ⟨h, e⟩ | ⟨tag, h, e⟩ | ⟨tag, h, e⟩ <;> rw [e]
  · exact ⟨s.ce, s.dlt, rfl, rfl, rfl, rfl, rfl, h, rfl, rfl, rfl, rfl, rfl, rfl, rfl⟩
  · exact ⟨_, s.dlt, rfl, rfl, rfl, rfl, rfl, rfl, rfl, rfl, rfl, rfl, rfl, rfl, rfl⟩
  · exact ⟨_, _, rfl, rfl, rfl, rfl, rfl, rfl, rfl, rfl, rfl, rfl, rfl, rfl, rfl⟩

/-! ### Stage 7 -/

/-- What a disposal can do (R58). -/
theorem State.dispose_cases (o : OutputFrame) (s : State) :
    (s.ce.forwarding = .on ∧ s.dlt.link = .up ∧ s.dispose o =
      (s.onDlt fun d => { d with forwardQueue := d.forwardQueue ++ [o] }).onCe
        fun ce => { ce with forwarded := ce.forwarded + 1 }) ∨
    (s.ce.forwarding = .on ∧ s.dlt.link = .down ∧
      s.dispose o = s.onCe fun ce => { ce with shed := ce.shed + 1 }) ∨
    (s.ce.forwarding = .off ∧ s.dispose o = s) := by
  unfold State.dispose
  cases s.ce.forwarding <;> cases s.dlt.link <;> simp

/-! ### The eight stages -/

/-- The CE and the DLT that the eight stages leave, in terms of the state that stage 1 leaves. -/
theorem State.stages_eq (f : Frame) (s : State) :
    let s1 := s.applyPending .frame (some f.sequence)
    let list := s1.ce.applyChanges.substitutions
    let result := evaluate s1.ce.active s1.ce.live f
    let offered := s1.ce.captures.map fun r => r.start.collect list f
    ∃ queue forwarded shed,
      s.stages f = { s1 with
        ce := { s1.ce with
          live := result.1
          forwarded := forwarded
          shed := shed
          substitutions := list
          captures := offered.filterMap fun r => r.countdown.getLeft? }
        dlt := Dlt.convert (offered.filterMap fun r => r.countdown.getRight?)
          { s1.dlt with forwardQueue := queue }
        handed := { s1.handed with condition := s1.handed.condition ++ result.2 } } ∧
      ((s1.ce.forwarding = .on ∧ s1.dlt.link = .up ∧ queue = s1.dlt.forwardQueue ++ [f.output list] ∧
          forwarded = s1.ce.forwarded + 1 ∧ shed = s1.ce.shed) ∨
        (s1.ce.forwarding = .on ∧ s1.dlt.link = .down ∧ queue = s1.dlt.forwardQueue ∧
          forwarded = s1.ce.forwarded ∧ shed = s1.ce.shed + 1) ∨
        (s1.ce.forwarding = .off ∧ queue = s1.dlt.forwardQueue ∧ forwarded = s1.ce.forwarded ∧
          shed = s1.ce.shed)) := by
  unfold State.stages State.evaluateFrame State.outputFrame
  generalize s.applyPending .frame (some f.sequence) = s1
  intro s1 list result offered
  have hc : (s1.ce.captures.map CaptureRecord.start).map (CaptureRecord.collect list f) = offered := by
    rw [List.map_map]; rfl
  have h5 : ((((s1.onCe Ce.applyChanges).onCe Ce.startCaptures).onCe
      fun ce => { ce with live := result.1 }).handCondition result.2).onCe (Ce.collectCaptures f) = { s1 with
      ce := { s1.ce with live := result.1, substitutions := list, captures := offered }
      handed := { s1.handed with condition := s1.handed.condition ++ result.2 } } := by
    rw [← hc]; rfl
  change ∃ queue forwarded shed, State.countCaptures (State.dispose (f.output list)
    (((((s1.onCe Ce.applyChanges).onCe Ce.startCaptures).onCe
      fun ce => { ce with live := result.1 }).handCondition result.2).onCe (Ce.collectCaptures f))) = _ ∧ _
  clear_value result
  revert h5
  generalize State.onCe (Ce.collectCaptures f) _ = s5
  intro h5
  rcases s5.dispose_cases (f.output list) with ⟨h1, h2, e⟩ | ⟨h1, h2, e⟩ | ⟨h1, e⟩ <;> rw [e, h5] <;>
    rw [h5] at h1 <;> (try rw [h5] at h2)
  · exact ⟨_, _, _, rfl, .inl ⟨h1, h2, rfl, rfl, rfl⟩⟩
  · exact ⟨s1.dlt.forwardQueue, _, _, rfl, .inr (.inl ⟨h1, h2, rfl, rfl, rfl⟩)⟩
  · exact ⟨s1.dlt.forwardQueue, s1.ce.forwarded, s1.ce.shed, rfl, .inr (.inr ⟨h1, rfl, rfl, rfl⟩)⟩

/-- What a boundary can do: nothing, or the eight stages for the head of the IFQ (R39). -/
theorem State.boundary_cases (s : State) :
    s.boundary = s ∨ ∃ f rest, s.alr.ifq = f :: rest ∧ s.ceFree = true ∧
      s.boundary = ({ s with alr := { s.alr with ifq := rest } } : State).stages f := by
  unfold State.boundary
  split
  · exact .inl rfl
  next f rest h =>
    split
    next hc => exact .inr ⟨f, rest, h, hc, rfl⟩
    · exact .inl rfl

/-! ### Evaluation -/

/-- The raises already handed over play no part in an evaluation; they stay ahead of the new ones (R43). -/
theorem evaluateSample_raises (active : Bank) (q : Byte) (ts : Word) (live : Vector Live 32) (raises : List Raise)
    (x : Sample) :
    evaluateSample active q ts (live, raises) x =
      ((evaluateSample active q ts (live, []) x).1, raises ++ (evaluateSample active q ts (live, []) x).2) := by
  simp [evaluateSample]

theorem foldl_evaluateSample_raises (active : Bank) (q : Byte) (ts : Word) (xs : List Sample)
    (live : Vector Live 32) (raises : List Raise) :
    xs.foldl (evaluateSample active q ts) (live, raises) =
      ((xs.foldl (evaluateSample active q ts) (live, [])).1,
        raises ++ (xs.foldl (evaluateSample active q ts) (live, [])).2) := by
  induction xs generalizing live raises with
  | nil => simp
  | cons x xs ih =>
    simp only [List.foldl_cons]
    rw [evaluateSample_raises, ih, ih _ (evaluateSample active q ts (live, []) x).2, List.append_assoc]

/-- A sample of another channel leaves a channel's live state. -/
theorem evaluateSample_other (active : Bank) (q : Byte) (ts : Word) (acc : Vector Live 32 × List Raise) (x : Sample)
    (c : Channel) (h : x.channel ≠ c) : (evaluateSample active q ts acc x).1[c] = acc.1[c] := by
  have : x.channel.val ≠ c.val := fun e => h (Fin.ext e)
  simp [evaluateSample, this]

/-- A sample's own channel after it. -/
theorem evaluateSample_own (active : Bank) (q : Byte) (ts : Word) (acc : Vector Live 32 × List Raise) (x : Sample) :
    (evaluateSample active q ts acc x).1[x.channel] = active[x.channel].after acc.1[x.channel] x.value q := by
  simp [evaluateSample]

end Sys2Proof.Machine
end

