-- ==== Sys2Proof/Laws/Check.lean ====
section
/-! SUPPORT. Bytes and the frame check: what is laid out is read back, one byte more of the check, when a check is
good, the argument lengths as a list, and that a frame sent with its check carries a
good one. -/

namespace Sys2Proof.Machine

@[simp] theorem halfBytes_length (h : Half) : (halfBytes h).length = 2 := rfl
@[simp] theorem wordBytes_length (w : Word) : (wordBytes w).length = 4 := rfl

/-- Two bytes, most significant first, as quotients (R176). -/
theorem halfBytes_eq (h : Half) : halfBytes h = [BitVec.ofNat 8 (h.toNat / 256), BitVec.ofNat 8 h.toNat] := by
  simp only [halfBytes, List.cons.injEq, and_true]
  constructor <;> apply BitVec.eq_of_toNat_eq <;> simp [BitVec.extractLsb'_toNat, Nat.shiftRight_eq_div_pow]

/-- Four bytes, most significant first, as quotients (R176). -/
theorem wordBytes_eq (w : Word) :
    wordBytes w = [BitVec.ofNat 8 (w.toNat / 16777216), BitVec.ofNat 8 (w.toNat / 65536),
      BitVec.ofNat 8 (w.toNat / 256), BitVec.ofNat 8 w.toNat] := by
  simp only [wordBytes, List.cons.injEq, and_true]
  refine ⟨?_, ?_, ?_, ?_⟩ <;> apply BitVec.eq_of_toNat_eq <;>
    simp [BitVec.extractLsb'_toNat, Nat.shiftRight_eq_div_pow]

/-- Two bytes read back. -/
theorem halfOf_bytes (h : Half) : halfOf (h.extractLsb' 8 8) (h.extractLsb' 0 8) = h := by
  unfold halfOf
  apply BitVec.eq_of_getLsbD_eq
  intro i hi
  simp only [BitVec.getLsbD_append, BitVec.getLsbD_extractLsb']
  by_cases h1 : i < 8
  · simp [h1]
  · simp [h1]
    rw [show 8 + (i - 8) = i by omega]
    simp
    omega

/-- Four bytes read back. -/
theorem wordOf_bytes (w : Word) :
    wordOf (w.extractLsb' 24 8) (w.extractLsb' 16 8) (w.extractLsb' 8 8) (w.extractLsb' 0 8) = w := by
  unfold wordOf
  apply BitVec.eq_of_getLsbD_eq
  intro i hi
  simp only [BitVec.getLsbD_append, BitVec.getLsbD_extractLsb']
  by_cases h1 : i < 8
  · simp [h1]
  · by_cases h2 : i - 8 < 8
    · simp [h1, h2]
      rw [show 8 + (i - 8) = i by omega]
    · by_cases h3 : i - 8 - 8 < 8
      · simp [h1, h2, h3]
        rw [show 16 + (i - 8 - 8) = i by omega]
      · simp [h1, h2, h3]
        rw [show 24 + (i - 8 - 8 - 8) = i by omega]
        simp
        omega

@[simp] theorem withCheck_length (body : List Byte) : (withCheck body).length = body.length + 2 := by
  simp [withCheck]

/-- The bytes before the check of a frame sent. -/
theorem bodyOf_withCheck (body : List Byte) : bodyOf (withCheck body) = body := by
  unfold bodyOf
  rw [withCheck_length, Nat.add_sub_cancel]
  simp [withCheck]

/-- A frame sent with its check carries a good check (R176). -/
theorem checkGood_withCheck (body : List Byte) : checkGood (withCheck body) = true := by
  unfold checkGood
  rw [bodyOf_withCheck, withCheck_length, Nat.add_sub_cancel]
  simp [withCheck]

/-! ### The check -/

/-- The check over no bytes is the register's starting value (R176). -/
@[simp] theorem crc_nil : crc [] = 65535 := rfl

/-- One more byte of the check (R176). -/
theorem crc_append_byte (bytes : List Byte) (b : Byte) : crc (bytes ++ [b]) = crcByte (crc bytes) b := by
  simp [crc]

/-- A byte in the upper half of the register. -/
theorem upperByte (b : Byte) : (b ++ (0 : Byte) : Half) = BitVec.ofNat 16 (256 * b.toNat) := by
  revert b
  decide +kernel

/-- A frame has a good check exactly when it ends in the check over the rest (R176). -/
theorem checkGood_iff (frame : List Byte) :
    checkGood frame = true ↔ ∃ body : List Byte, frame = body ++ halfBytes (crc body) := by
  constructor
  · intro h
    simp only [checkGood, Bool.and_eq_true, beq_iff_eq] at h
    exact ⟨bodyOf frame, by rw [← h.2, bodyOf, List.take_append_drop]⟩
  · rintro ⟨body, rfl⟩
    exact checkGood_withCheck body

/-- A credit frame has a good check and kind code 81 (R148). -/
theorem isCreditFrame_iff (frame : List Byte) :
    isCreditFrame frame = true ↔ checkGood frame = true ∧ frame.getD 0 0 = 81 := by
  cases frame with
  | nil => simp [isCreditFrame, checkGood]
  | cons kind rest => simp [isCreditFrame, kindOf, Config.kindCredit]

/-- The argument lengths of the sixteen commands, in the order of their codes (R179). -/
theorem argumentLength_iff (code : Byte) (n : Nat) :
    argumentLength code = some n ↔
      ∃ k, code.toNat = k + 1 ∧ [2, 15, 0, 0, 3, 1, 2, 3, 1, 4, 0, 5, 1, 1, 3, 0][k]? = some n := by
  have h : ∀ c : Byte, argumentLength c =
      if c.toNat = 0 then none else [2, 15, 0, 0, 3, 1, 2, 3, 1, 4, 0, 5, 1, 1, 3, 0][c.toNat - 1]? := by
    decide +kernel
  rw [h]
  constructor
  · intro hn
    split at hn
    · simp at hn
    · exact ⟨code.toNat - 1, by omega, hn⟩
  · rintro ⟨k, hk, hn⟩
    rw [if_neg (by omega), hk]
    exact hn

end Sys2Proof.Machine
end

