-- ==== Sys2Proof/Laws/Exec.lean ====
section
/-! SUPPORT. Every row as one function of the state, so that a claim about exec or step is a claim about these
functions: the effect of an event, the act of a command, and the packaging of an invariant. -/

namespace Sys2Proof.Machine

/-- What a command's execution does once its frame has left the queue. -/
def commandAct (f : CommandFrame) : Instr → State → State
  | .readEntry _ channel bank => readEntry f channel bank
  | .writeEntry _ channel entry => writeEntry f channel entry
  | .loadShadow _ => loadShadow f
  | .commit _ => commitBanks f
  | .setGroup _ group level enables => setGroup f group level enables
  | .readGroup _ group => readGroup f group
  | .clearFactors _ group mask => clearFactors f group mask
  | .returnLevel _ depth presence factor => returnLevel f depth presence factor
  | .reportGate _ gate => reportGate f gate
  | .substitute _ channel form value => substitute f channel form value
  | .readSubstitutions _ => readSubstitutions f
  | .capture _ channels limit => capture f channels limit
  | .cancelCapture _ captureTag => cancelCapture f captureTag
  | .readStatus _ clearCounters => readStatus f clearCounters
  | .setLink _ timeout forwarding => setLink f timeout forwarding
  | .resync _ => resync f
  | .unknownCommand _ _ _ => unknownCommand f
  | _ => id

/-- What an event that is no command does while PORST is released. -/
def eventEffect : Instr → State → State
  | .lockGained => State.onAlr Alr.gainLock
  | .lockLost => State.loseLock
  | .arrival frame => State.arrive frame
  | .staleTimerExpiry => State.expire
  | .declarationHandedToCe => State.takeDeclaration
  | .frameBoundary => State.boundary
  | .factorRaise source => State.takeRaise source
  | .selectionAttempt => State.attempt
  | .commandFrame frame => State.receive frame
  | .creditFrame frame => State.receive frame
  | .transmissionStart => State.start
  | .transmissionEnd => State.onDlt Dlt.finish
  | .linkUp => State.onDlt Dlt.raiseLink
  | .linkDown => State.linkReset
  | _ => id

/-- The row of a command is the execution of its frame. -/
theorem exec_command {i : Instr} {f : CommandFrame} (h : commandOf i = some f) (hw : i.wellFormed = true) (s : State) :
    exec i s = s.taking (State.execute f (commandAct f i)) := by
  cases i <;> simp only [commandOf, Option.some.injEq, reduceCtorEq] at h <;> subst h <;> try rfl
  next tag code arguments =>
    simp only [Instr.wellFormed, Option.isNone_iff_eq_none] at hw
    simp only [exec, execUnknownCommand, hw]
    rfl

/-- A row that names an unknown command with a defined code executes nothing. -/
theorem exec_command_ill {i : Instr} {f : CommandFrame} (h : commandOf i = some f) (hw : i.wellFormed = false)
    (s : State) : exec i s = .next s := by
  cases i <;> simp only [commandOf, Option.some.injEq, reduceCtorEq] at h <;>
    simp only [Instr.wellFormed, reduceCtorEq] at hw
  next tag code arguments =>
    simp only [exec, execUnknownCommand]
    cases ha : argumentLength code with
    | none => simp [ha] at hw
    | some n => cases hp : s.porst <;> simp [State.taking, hp]

/-- The row of an event that is no command and not PORST's. -/
theorem exec_event {i : Instr} (h : commandOf i = none) (ha : i ≠ .porstAssert) (hr : i ≠ .porstRelease) (s : State) :
    exec i s = s.taking (eventEffect i) := by
  cases i <;> first | rfl | contradiction

/-- No row stops the part: every one answers a next state. -/
theorem exec_isNext (i : Instr) (s : State) : ∃ t, exec i s = .next t := by
  have take : ∀ f : State → State, ∃ t, s.taking f = .next t := fun f => by
    cases hp : s.porst <;> simp [State.taking, hp]
  by_cases ha : i = .porstAssert
  · subst ha; exact ⟨_, rfl⟩
  by_cases hr : i = .porstRelease
  · subst hr; exact ⟨_, rfl⟩
  cases hc : commandOf i with
  | none => rw [exec_event hc ha hr]; exact take _
  | some f =>
    cases hw : i.wellFormed with
    | false => exact ⟨s, exec_command_ill hc hw s⟩
    | true => rw [exec_command hc hw]; exact take _

/-- A property that the two events of PORST, every event's effect and every command's act keep is kept by exec. -/
theorem exec_keeps {Inv : State → Prop}
    (assert : ∀ s, Inv s → Inv s.powerOnReset)
    (release : ∀ s, Inv s → Inv { s with porst := .released })
    (event : ∀ i s, commandOf i = none → s.porst = .released → Inv s → Inv (eventEffect i s))
    (act : ∀ i f s rest, commandOf i = some f → i.wellFormed = true → s.Executes f rest → Inv s →
      Inv (commandAct f i (s.dequeued rest)))
    {i : Instr} {s t : State} (hs : Inv s) (h : exec i s = .next t) : Inv t := by
  by_cases ha : i = .porstAssert
  · subst ha; cases h; exact assert s hs
  by_cases hr : i = .porstRelease
  · subst hr; cases h; exact release s hs
  cases hc : commandOf i with
  | none =>
    rw [exec_event hc ha hr] at h
    rcases State.taking_next h with ⟨-, rfl⟩ | ⟨hp, rfl⟩
    · exact hs
    · exact event i s hc hp hs
  | some f =>
    cases hw : i.wellFormed with
    | false =>
      rw [exec_command_ill hc hw] at h
      cases h; exact hs
    | true =>
      rw [exec_command hc hw] at h
      rcases State.taking_next h with ⟨-, rfl⟩ | ⟨hp, rfl⟩
      · exact hs
      · rcases s.execute_cases f (commandAct f i) with he | ⟨rest, hq, hl, he⟩
        · rw [he]; exact hs
        · rw [he]; exact act i f s rest hc hw ⟨hp, hq, hl⟩ hs

/-- A property that exec and a period keep, and that does not look at the queue of events, is kept by a step. -/
theorem step_keeps {Inv : State → Prop}
    (queue : ∀ s q, Inv s → Inv { s with pending := q })
    (row : ∀ i s t, Inv s → exec i s = .next t → Inv t)
    (period : ∀ s, Inv s → Inv s.period)
    {s t : State} (hs : Inv s) (h : step s = .next t) : Inv t := by
  unfold step at h
  split at h
  · unfold State.idle at h
    split at h
    · exact row _ _ _ hs h
    · cases h; exact period s hs
  · exact row _ _ _ (queue s _ hs) h

end Sys2Proof.Machine
end

