-- ==== Sys2Proof/Laws/Frames.lean ====
section
/-! SUPPORT. The frame of every row: which fields of the state an event or the act of a command can change, and the
four shapes that the act of a command can take. -/

namespace Sys2Proof.Machine

/-! ### Events -/

/-- The events of the acquisition link and a period of the time base change the ALR and what is handed over. -/
theorem acquisition_frame (s : State) (bytes : List Byte) :
    (∃ a h, s.loseLock = { s with alr := a, handed := h }) ∧
    (∃ a h, s.arrive bytes = { s with alr := a, handed := h }) ∧
    (∃ a h, s.expire = { s with alr := a, handed := h }) ∧
    ∃ a h, s.period = { s with alr := a, handed := h } := by
  refine ⟨?_, ?_, ?_, ?_⟩
  · unfold State.loseLock
    split
    · exact ⟨_, _, rfl⟩
    · dsimp only
      split <;> exact ⟨_, _, rfl⟩
  · unfold State.arrive
    split
    · exact ⟨_, _, rfl⟩
    split
    · exact ⟨_, _, rfl⟩
    · exact ⟨_, _, rfl⟩
    split
    · exact ⟨_, _, rfl⟩
    unfold State.takeInOrder
    dsimp only
    split <;> split <;> exact ⟨_, _, rfl⟩
  · unfold State.expire
    split <;> exact ⟨_, _, rfl⟩
  · rcases s.period_cases with h | ⟨n, _, _, h⟩ | ⟨n, _, _, h⟩ <;> rw [h] <;> exact ⟨_, _, rfl⟩

/-- A raise changes the FRU and what is handed over. -/
theorem takeRaise_frame (s : State) (source : RaiseSource) :
    ∃ fru h, s.takeRaise source = { s with fru := fru, handed := h } := by
  unfold State.takeRaise
  split <;> split <;> exact ⟨_, _, rfl⟩

/-- A selection attempt changes the FRU. -/
theorem attempt_frame (s : State) : ∃ fru, s.attempt = { s with fru := fru } := by
  unfold State.attempt
  split
  · exact ⟨_, rfl⟩
  · split <;> exact ⟨_, rfl⟩

/-- A frame boundary changes the ALR, the CE, the DLT but its link state, and what is handed over. -/
theorem boundary_frame (s : State) :
    ∃ a ce d h, s.boundary = { s with alr := a, ce := ce, dlt := d, handed := h } ∧ d.link = s.dlt.link := by
  rcases s.boundary_cases with e | ⟨f, rest, -, -, e⟩
  · exact ⟨s.alr, s.ce, s.dlt, s.handed, e, rfl⟩
  obtain ⟨queue, forwarded, shed, e2, -⟩ := State.stages_eq f ({ s with alr := { s.alr with ifq := rest } } : State)
  obtain ⟨ce, dlt, e3, -, -, -, -, -, -, -, hl, -⟩ :=
    State.applyPending_frame .frame (some f.sequence) ({ s with alr := { s.alr with ifq := rest } } : State)
  rw [e, e2, e3]
  exact ⟨_, _, _, _, rfl, hl⟩

/-- A declaration changes the CE, the DLT but its link state, and what is handed over. -/
theorem takeDeclaration_frame (s : State) :
    ∃ ce d h, s.takeDeclaration = { s with ce := ce, dlt := d, handed := h } ∧ d.link = s.dlt.link := by
  unfold State.takeDeclaration
  split
  · exact ⟨s.ce, s.dlt, s.handed, rfl, rfl⟩
  next n _ =>
    obtain ⟨ce, dlt, e, -, -, -, -, -, -, -, hl, -⟩ :=
      State.applyPending_frame .stale none (s.onHanded fun h => { h with declarations := n })
    rw [e]
    exact ⟨_, _, _, rfl, hl⟩

/-- A start attempt changes the FRU and the DLT but its link state. -/
theorem start_frame (s : State) : ∃ fru d, s.start = { s with fru := fru, dlt := d } ∧ d.link = s.dlt.link := by
  unfold State.start
  split
  · split
    · exact ⟨_, _, rfl, rfl⟩
    split
    · exact ⟨s.fru, _, rfl, rfl⟩
    split
    · exact ⟨s.fru, _, rfl, rfl⟩
    · exact ⟨s.fru, s.dlt, rfl, rfl⟩
  · exact ⟨s.fru, s.dlt, rfl, rfl⟩

/-- A frame on the return lane changes the DLT but its link state, and the MX. -/
theorem receive_frame (s : State) (bytes : List Byte) :
    ∃ d m, s.receive bytes = { s with dlt := d, mx := m } ∧ d.link = s.dlt.link := by
  unfold State.receive
  split
  · exact ⟨s.dlt, s.mx, rfl, rfl⟩
  split
  · refine ⟨_, s.mx, rfl, ?_⟩
    unfold Dlt.takeCredit
    split
    · split <;> rfl
    · rfl
  · exact ⟨s.dlt, _, rfl, rfl⟩

/-! ### Commands -/

/-- The shapes of a command's act: a refusal that changes nothing else, an answer that touches neither queue of the
DLT nor the capture list nor the commit record, a reservation for a deferred response, and a cancelled capture. -/
inductive ActShape (f : CommandFrame) (s : State) : State → Prop where
  | refuse (code : ResponseCode) (payload : List Byte) (h : code.isRefusal = true) :
      ActShape f s (s.respond f code payload)
  | answer (alr : Alr) (ce : Ce) (fru : Fru) (counters : EgressCounters) (checkFail discarded : Word)
      (code : ResponseCode) (payload : List Byte) (h : code.isRefusal = false)
      (captures : ce.captures = s.ce.captures) (commit : ce.commit = s.ce.commit) :
      ActShape f s (({ s with
        alr := alr
        ce := ce
        fru := fru
        dlt := { s.dlt with counters := counters }
        mx := { s.mx with checkFail := checkFail, discarded := discarded } } : State).respond f code payload)
  | reserve (ce : Ce) (claims : ce.claims = s.ce.claims + 1)
      (captures : s.ce.captures.length ≤ 4 → ce.captures.length ≤ 4) :
      ActShape f s ((s.onCe fun _ => ce).onDlt Dlt.reserve)
  | cancel (r : CaptureRecord) (examined : Nat) (payload : List Byte) (h : r ∈ s.ce.captures) :
      ActShape f s (((s.onCe fun ce => { ce with captures := s.ce.captures.eraseP fun x => x.tag == r.tag }).onDlt
        (Dlt.convert [r.completion .captureCancelled examined])).respond f .done payload)

/-- An answer that changes the CE alone. -/
theorem ActShape.ofCe {f : CommandFrame} {s : State} (ce : Ce) (code : ResponseCode) (payload : List Byte)
    (h : code.isRefusal = false) (captures : ce.captures = s.ce.captures) (commit : ce.commit = s.ce.commit) :
    ActShape f s (({ s with ce := ce } : State).respond f code payload) :=
  .answer s.alr ce s.fru s.dlt.counters s.mx.checkFail s.mx.discarded code payload h captures commit

/-- An answer that changes the FRU alone. -/
theorem ActShape.ofFru {f : CommandFrame} {s : State} (fru : Fru) (code : ResponseCode) (payload : List Byte)
    (h : code.isRefusal = false) : ActShape f s (({ s with fru := fru } : State).respond f code payload) :=
  .answer s.alr s.ce fru s.dlt.counters s.mx.checkFail s.mx.discarded code payload h rfl rfl

/-- An answer that changes nothing else. -/
theorem ActShape.plain {f : CommandFrame} {s : State} (code : ResponseCode) (payload : List Byte)
    (h : code.isRefusal = false) : ActShape f s (s.respond f code payload) := ActShape.ofFru s.fru code payload h

theorem ActShape.bad {f : CommandFrame} {s : State} : ActShape f s (s.badArgument f) := .refuse _ _ rfl

theorem commitBanks_shape (f : CommandFrame) (s : State) : ActShape f s (commitBanks f s) := by
  unfold commitBanks
  split
  · exact .refuse _ _ rfl
  next h =>
    split
    · exact .reserve { s.ce with commit := some ⟨f.tag, false⟩ } (by simp [Ce.claims, h]) id
    · exact ActShape.ofCe s.ce.applyCommit _ _ rfl rfl h.symm

theorem returnChecked_shape (f : CommandFrame) (depth : Nat) (c : Option FactorNo) (s : State) :
    ActShape f s (returnChecked f depth c s) := by
  unfold returnChecked
  split
  · exact .refuse _ _ rfl
  split
  · exact .refuse _ _ rfl
  split
  · exact .refuse _ _ rfl
  · exact ActShape.ofFru _ _ _ rfl

theorem substituteChecked_shape (f : CommandFrame) (c : Channel) (form : Form) (value : Half) (s : State) :
    ActShape f s (substituteChecked f c form value s) := by
  unfold substituteChecked substituteDone
  dsimp only
  split
  · split
    · exact ActShape.ofCe _ _ _ rfl rfl rfl
    · exact ActShape.plain _ _ rfl
  all_goals
    split
    · exact .refuse _ _ rfl
    split
    · exact ActShape.ofCe _ _ _ rfl rfl rfl
    split
    · exact ActShape.ofCe _ _ _ rfl rfl rfl
    · exact .refuse _ _ rfl

theorem capture_shape (f : CommandFrame) (set : Word) (limit : Byte) (s : State) :
    ActShape f s (capture f set limit s) := by
  unfold capture
  split
  · exact .bad
  split
  · exact .bad
  split
  · exact .refuse _ _ rfl
  split
  next hl =>
    refine .reserve { s.ce with captures := _ } ?_ fun _ => ?_
    · simp [Ce.claims]
      omega
    · simp [Config.captureCapacity] at hl ⊢
      omega
  · exact .refuse _ _ rfl

theorem cancelCapture_shape (f : CommandFrame) (captureTag : Byte) (s : State) :
    ActShape f s (cancelCapture f captureTag s) := by
  unfold cancelCapture
  split
  · exact .refuse _ _ rfl
  next r h =>
    have ht := List.find?_some h
    simp only [beq_iff_eq] at ht
    subst ht
    exact .cancel r _ _ (List.mem_of_find?_eq_some h)

/-- The act of every command has one of the four shapes. -/
theorem commandAct_shape {i : Instr} {f : CommandFrame} (hc : commandOf i = some f) (s : State) :
    ActShape f s (commandAct f i s) := by
  cases i <;> simp only [commandOf, Option.some.injEq, reduceCtorEq] at hc <;> simp only [commandAct]
  · unfold readEntry
    split
    · exact ActShape.plain _ _ rfl
    · exact .bad
  · unfold writeEntry
    split
    · exact .bad
    split
    · exact .refuse _ _ rfl
    split
    · exact .refuse _ _ rfl
    · exact ActShape.ofCe _ _ _ rfl rfl rfl
  · unfold loadShadow
    split
    · exact .refuse _ _ rfl
    · exact ActShape.ofCe _ _ _ rfl rfl rfl
  · exact commitBanks_shape f s
  · unfold setGroup
    split
    · exact ActShape.ofFru _ _ _ rfl
    · exact .bad
  · unfold readGroup
    split
    · exact ActShape.plain _ _ rfl
    · exact .bad
  · unfold clearFactors
    split
    · exact ActShape.ofFru _ _ _ rfl
    · exact .bad
  · unfold returnLevel
    split
    · exact .bad
    split
    · split
      · exact .bad
      · exact returnChecked_shape _ _ _ _
    · exact returnChecked_shape _ _ _ _
  · unfold reportGate
    split
    · exact .bad
    · exact ActShape.ofFru _ _ _ rfl
  · unfold substitute
    split
    · exact substituteChecked_shape _ _ _ _ _
    · exact .bad
  · exact ActShape.plain _ _ rfl
  · exact capture_shape _ _ _ _
  · exact cancelCapture_shape _ _ _
  · unfold readStatus
    split
    · exact ActShape.plain _ _ rfl
    · exact .answer _ _ _ _ _ _ _ _ rfl rfl rfl
    · exact .bad
  · unfold setLink
    split
    · exact .bad
    · exact .answer _ _ s.fru s.dlt.counters s.mx.checkFail s.mx.discarded _ _ rfl rfl rfl
  · exact .answer _ s.ce s.fru s.dlt.counters s.mx.checkFail s.mx.discarded _ _ rfl rfl rfl
  · exact .refuse _ _ rfl

/-- The act of a command keeps the pin, the queue of events, what is handed over, the command queue, and of the DLT
all but its responses, reservations and counters. -/
theorem commandAct_frame {i : Instr} {f : CommandFrame} (hc : commandOf i = some f) (s : State) :
    ∃ alr ce fru responses reservations counters checkFail discarded,
      commandAct f i s = { s with
        alr := alr
        ce := ce
        fru := fru
        dlt := { s.dlt with responses := responses, reservations := reservations, counters := counters }
        mx := { s.mx with checkFail := checkFail, discarded := discarded } } := by
  have h := commandAct_shape hc s
  generalize commandAct f i s = t at h
  cases h <;> exact ⟨_, _, _, _, _, _, _, _, rfl⟩

end Sys2Proof.Machine
end

