-- ==== Sys2Proof/Laws/Operands.lean ====
section
/-! SUPPORT. Reading operands: the value each argument reader gives in and out of its range, the entry checks as one
chain of plain conditions, and the entries of a sample frame byte by byte. -/

namespace Sys2Proof.Machine

/-! ### Arguments in and out of range (R168) -/

theorem channelOf_none {b : Byte} (h : 31 < b.toNat) : channelOf b = none := by
  unfold channelOf; rw [dif_neg (by omega)]
theorem channelOf_some {b : Byte} {c : Channel} (h : b.toNat = c.val) : channelOf b = some c := by
  unfold channelOf; rw [dif_pos (by omega)]; congr 1; exact Fin.ext h

theorem groupOf_none {b : Byte} (h : 7 < b.toNat) : groupOf b = none := by
  unfold groupOf; rw [dif_neg (by omega)]
theorem groupOf_some {b : Byte} {c : GroupNo} (h : b.toNat = c.val) : groupOf b = some c := by
  unfold groupOf; rw [dif_pos (by omega)]; congr 1; exact Fin.ext h

theorem factorOf_none {b : Byte} (h : 31 < b.toNat) : factorOf b = none := by
  unfold factorOf; rw [dif_neg (by omega)]
theorem factorOf_some {b : Byte} {c : FactorNo} (h : b.toNat = c.val) : factorOf b = some c := by
  unfold factorOf; rw [dif_pos (by omega)]; congr 1; exact Fin.ext h

theorem levelOf_none {b : Byte} (h : 3 < b.toNat) : levelOf b = none := by
  unfold levelOf; rw [dif_neg (by omega)]
theorem levelOf_some {b : Byte} {c : Fin 4} (h : b.toNat = c.val) : levelOf b = some c := by
  unfold levelOf; rw [dif_pos (by omega)]; congr 1; exact Fin.ext h

theorem nibbleOf_none {b : Byte} (h : 15 < b.toNat) : nibbleOf b = none := by
  unfold nibbleOf; rw [if_neg (by omega)]
theorem nibbleOf_some {b : Byte} {c : BitVec 4} (h : b.toNat = c.toNat) : nibbleOf b = some c := by
  unfold nibbleOf; rw [if_pos (by omega)]; congr 1; apply BitVec.eq_of_toNat_eq; simp; omega

theorem Ce.bank_none (ce : Ce) {b : Byte} (h : 1 < b.toNat) : ce.bank b = none := by
  unfold Ce.bank
  split <;> first | omega | rfl

theorem Ce.bank_some (ce : Ce) {b : Byte} (h : b.toNat ≤ 1) :
    ce.bank b = some (if b = 0 then ce.active else ce.shadow) := by
  have : b = 0 ∨ b = 1 := by
    rcases Nat.le_one_iff_eq_zero_or_eq_one.mp h with h | h
    · left; exact BitVec.eq_of_toNat_eq (by simpa using h)
    · right; exact BitVec.eq_of_toNat_eq (by simpa using h)
  rcases this with rfl | rfl <;> rfl

/-! ### The mode and the entry checks (R29) -/

theorem Mode.ofByte_none {b : Byte} : Mode.ofByte b = none ↔ 5 < b.toNat := by
  unfold Mode.ofByte
  split <;> (simp_all; try omega)

theorem Mode.ofByte_byte {b : Byte} {m : Mode} (h : Mode.ofByte b = some m) : m.byte = b := by
  revert h; unfold Mode.ofByte
  split <;> intro h <;> simp at h <;> subst h <;> apply BitVec.eq_of_toNat_eq <;> simp_all [Mode.byte]

theorem Mode.ofByte_some {b : Byte} {m : Mode} : Mode.ofByte b = some m ↔ b = m.byte := by
  constructor
  · intro h; exact (Mode.ofByte_byte h).symm
  · rintro rfl; cases m <;> rfl

/-- A factor with its presence bit out of range (checks 6 and 7). -/
theorem factorOutOfRange_iff (o : Bool) (b : Byte) :
    factorOutOfRange (if o then some b else none) = true ↔ o = true ∧ 27 < b.toNat := by
  cases o <;> simp [factorOutOfRange]

/-- The nine checks as one chain of conditions on the fields. -/
theorem EntryArgs.failedCheck_eq (a : EntryArgs) : EntryArgs.failedCheck a =
    if 5 < a.mode.toNat then some 1
    else if 4095 < a.hysteresis.toNat then some 2
    else if a.stepLimit.toNat = 0 ∨ 32767 < a.stepLimit.toNat then some 3
    else if a.onsetCount.toNat = 0 ∨ 64 < a.onsetCount.toNat then some 4
    else if a.releaseCount.toNat = 0 ∨ 64 < a.releaseCount.toNat then some 5
    else if a.presence.getLsbD 0 = true ∧ 27 < a.onsetFactor.toNat then some 6
    else if a.presence.getLsbD 1 = true ∧ 27 < a.releaseFactor.toNat then some 7
    else if (a.mode = 3 ∨ a.mode = 4) ∧ a.high.toInt < a.low.toInt then some 8
    else if a.mode = 3 ∧ a.high.toInt - a.low.toInt < 2 * (a.hysteresis.toNat : Int) then some 9
    else none := by
  unfold EntryArgs.failedCheck EntryArgs.onset EntryArgs.release
  dsimp only
  simp only [factorOutOfRange_iff, Mode.ofByte_none, Mode.ofByte_some, Mode.byte]

/-! ### Presence bits and factor bytes -/

theorem flagBytes_two (a b : Bool) :
    flagByte a ||| (flagByte b <<< 1) = (if a then 1 else 0) + (if b then 2 else 0) := by
  cases a <;> cases b <;> decide

theorem flagBytes_four (a b c d : Bool) :
    flagByte a ||| (flagByte b <<< 1) ||| (flagByte c <<< 2) ||| (flagByte d <<< 3) =
      (if a then 1 else 0) + (if b then 2 else 0) + (if c then 4 else 0) + (if d then 8 else 0) := by
  cases a <;> cases b <;> cases c <;> cases d <;> decide

theorem nibbleByte_eq (n : BitVec 4) : nibbleByte n = BitVec.ofNat 8 n.toNat := by
  apply BitVec.eq_of_toNat_eq; simp [nibbleByte]

theorem factorByte_eq (o : Option ConditionFactor) : factorByte o = BitVec.ofNat 8 ((o.map (·.val)).getD 0) := by
  cases o <;> rfl

/-! ### The entries of a sample frame (R177) -/

/-- What the reader makes of the bytes of n entries and a check. -/
theorem readSamples_spec (n : Nat) (l : List Byte) (hl : l.length = 3 * n + 2) :
    ((∃ i < n, 31 < (l.getD (3 * i) 0).toNat) → readSamples n l = none) ∧
    ((∀ i < n, (l.getD (3 * i) 0).toNat ≤ 31) → ∃ xs, readSamples n l = some xs ∧ xs.length = n ∧
      ∀ (i : Nat) (x : Sample), xs[i]? = some x → x.channel.val = (l.getD (3 * i) 0).toNat ∧
        x.value = halfOf (l.getD (3 * i + 1) 0) (l.getD (3 * i + 2) 0)) := by
  induction n generalizing l with
  | zero => exact ⟨by rintro ⟨i, hi, _⟩; omega, fun _ => ⟨[], by simp [readSamples]⟩⟩
  | succ n ih =>
    match l, hl with
    | c :: h :: lo :: rest, hl =>
      simp at hl
      obtain ⟨ih1, ih2⟩ := ih rest (by omega)
      have sh : ∀ i k, (c :: h :: lo :: rest).getD (3 * (i + 1) + k) 0 = rest.getD (3 * i + k) 0 := by
        intro i k
        rw [show 3 * (i + 1) + k = (3 * i + k) + 3 by ring]
        rfl
      have sh0 : ∀ i, (c :: h :: lo :: rest).getD (3 * (i + 1)) 0 = rest.getD (3 * i) 0 := fun i => sh i 0
      constructor
      · rintro ⟨i, hi, hb⟩
        cases i with
        | zero =>
          have : channelOf c = none := channelOf_none (by simpa using hb)
          simp [readSamples, this]
        | succ i =>
          have := ih1 ⟨i, by omega, by rw [sh0] at hb; exact hb⟩
          simp [readSamples, this]
      · intro hall
        obtain ⟨xs, e, hlen, hx⟩ := ih2 fun i hi => by
          have := hall (i + 1) (by omega)
          rwa [sh0] at this
        have h0 := hall 0 (by omega)
        have h0' : c.toNat < 32 := by simp at h0; omega
        refine ⟨⟨⟨c.toNat, h0'⟩, halfOf h lo⟩ :: xs, by simp [readSamples, e, channelOf, h0'], by simp [hlen], ?_⟩
        intro i x hi
        cases i with
        | zero => simp at hi; subst hi; simp
        | succ i =>
          simp at hi
          rw [sh0, sh, sh]
          exact hx i x hi

theorem channelOf_byteOf (c : Channel) : channelOf (byteOf c.val) = some c := by
  apply channelOf_some; revert c; decide

/-- Entries laid out are read back, whatever follows them. -/
theorem readSamples_bytes (xs : List Sample) (tail : List Byte) :
    readSamples xs.length ((xs.flatMap fun x => byteOf x.channel.val :: halfBytes x.value) ++ tail) = some xs := by
  induction xs with
  | nil => rfl
  | cons x xs ih =>
    simp only [List.length_cons, List.flatMap_cons, halfBytes, List.cons_append, List.nil_append,
      readSamples, channelOf_byteOf]
    simp only [halfBytes] at ih
    rw [ih, halfOf_bytes]

end Sys2Proof.Machine
end

