-- ==== Sys2Proof/Laws/PerInstr.lean ====
section
/-! SUPPORT. One family over the rows: a command's row lays out as many argument bytes as its command has (R179), so
the frame it names is one that test 4 of R161 lets through. -/

namespace Sys2Proof.Laws

open Sys2Proof.Machine

/-- The frame of a well-formed command row carries the arguments of its command's length. -/
def FrameLength.Statement (i : Instr) : Prop :=
  i.wellFormed = true → ∀ f n, commandOf i = some f → argumentLength f.code = some n → f.arguments.length = n

/-- A row that is no command names no frame. -/
theorem FrameLength.of_none {i : Instr} (h : commandOf i = none) : FrameLength.Statement i := by
  intro _ f n hf _
  rw [h] at hf
  cases hf

/-- A command row whose frame has the length of its command. -/
theorem FrameLength.of_some {i : Instr} {f : CommandFrame} (h : commandOf i = some f)
    (hn : argumentLength f.code = some f.arguments.length) : FrameLength.Statement i := by
  intro _ g n hg ha
  rw [h] at hg
  cases hg
  rw [hn] at ha
  exact Option.some.inj ha

theorem FrameLength.porstAssert : FrameLength.Statement .porstAssert := FrameLength.of_none rfl
theorem FrameLength.porstRelease : FrameLength.Statement .porstRelease := FrameLength.of_none rfl
theorem FrameLength.lockGained : FrameLength.Statement .lockGained := FrameLength.of_none rfl
theorem FrameLength.lockLost : FrameLength.Statement .lockLost := FrameLength.of_none rfl
theorem FrameLength.arrival (frame : List Byte) : FrameLength.Statement (.arrival frame) := FrameLength.of_none rfl
theorem FrameLength.staleTimerExpiry : FrameLength.Statement .staleTimerExpiry := FrameLength.of_none rfl
theorem FrameLength.declarationHandedToCe : FrameLength.Statement .declarationHandedToCe := FrameLength.of_none rfl
theorem FrameLength.frameBoundary : FrameLength.Statement .frameBoundary := FrameLength.of_none rfl
theorem FrameLength.factorRaise (source : RaiseSource) : FrameLength.Statement (.factorRaise source) :=
  FrameLength.of_none rfl
theorem FrameLength.selectionAttempt : FrameLength.Statement .selectionAttempt := FrameLength.of_none rfl
theorem FrameLength.commandFrame (frame : List Byte) : FrameLength.Statement (.commandFrame frame) :=
  FrameLength.of_none rfl
theorem FrameLength.creditFrame (frame : List Byte) : FrameLength.Statement (.creditFrame frame) :=
  FrameLength.of_none rfl
theorem FrameLength.transmissionStart : FrameLength.Statement .transmissionStart := FrameLength.of_none rfl
theorem FrameLength.transmissionEnd : FrameLength.Statement .transmissionEnd := FrameLength.of_none rfl
theorem FrameLength.linkUp : FrameLength.Statement .linkUp := FrameLength.of_none rfl
theorem FrameLength.linkDown : FrameLength.Statement .linkDown := FrameLength.of_none rfl
theorem FrameLength.readEntry (tag channel bank : Byte) : FrameLength.Statement (.readEntry tag channel bank) :=
  FrameLength.of_some rfl rfl
theorem FrameLength.writeEntry (tag channel : Byte) (entry : EntryArgs) :
    FrameLength.Statement (.writeEntry tag channel entry) := FrameLength.of_some rfl rfl
theorem FrameLength.loadShadow (tag : Byte) : FrameLength.Statement (.loadShadow tag) := FrameLength.of_some rfl rfl
theorem FrameLength.commit (tag : Byte) : FrameLength.Statement (.commit tag) := FrameLength.of_some rfl rfl
theorem FrameLength.setGroup (tag group level enables : Byte) :
    FrameLength.Statement (.setGroup tag group level enables) := FrameLength.of_some rfl rfl
theorem FrameLength.readGroup (tag group : Byte) : FrameLength.Statement (.readGroup tag group) :=
  FrameLength.of_some rfl rfl
theorem FrameLength.clearFactors (tag group mask : Byte) : FrameLength.Statement (.clearFactors tag group mask) :=
  FrameLength.of_some rfl rfl
theorem FrameLength.returnLevel (tag depth presence factor : Byte) :
    FrameLength.Statement (.returnLevel tag depth presence factor) := FrameLength.of_some rfl rfl
theorem FrameLength.reportGate (tag gate : Byte) : FrameLength.Statement (.reportGate tag gate) :=
  FrameLength.of_some rfl rfl
theorem FrameLength.substitute (tag channel form : Byte) (value : Half) :
    FrameLength.Statement (.substitute tag channel form value) := FrameLength.of_some rfl rfl
theorem FrameLength.readSubstitutions (tag : Byte) : FrameLength.Statement (.readSubstitutions tag) :=
  FrameLength.of_some rfl rfl
theorem FrameLength.capture (tag : Byte) (channels : Word) (limit : Byte) :
    FrameLength.Statement (.capture tag channels limit) := FrameLength.of_some rfl rfl
theorem FrameLength.cancelCapture (tag captureTag : Byte) :
    FrameLength.Statement (.cancelCapture tag captureTag) := FrameLength.of_some rfl rfl
theorem FrameLength.readStatus (tag clearCounters : Byte) :
    FrameLength.Statement (.readStatus tag clearCounters) := FrameLength.of_some rfl rfl
theorem FrameLength.setLink (tag : Byte) (timeout : Half) (forwarding : Byte) :
    FrameLength.Statement (.setLink tag timeout forwarding) := FrameLength.of_some rfl rfl
theorem FrameLength.resync (tag : Byte) : FrameLength.Statement (.resync tag) := FrameLength.of_some rfl rfl
theorem FrameLength.unknownCommand (tag code : Byte) (arguments : List Byte) :
    FrameLength.Statement (.unknownCommand tag code arguments) := by
  intro hw f n hf ha
  cases hf
  simp only [Instr.wellFormed, Option.isNone_iff_eq_none] at hw
  rw [hw] at ha
  cases ha

end Sys2Proof.Laws
end

