-- ==== Sys2Proof/Tests/Slice0.lean ====
section
/-! SUPPORT. The model's own tests: the ill-formed terms the check refuses, words from the spec, cases of its worked
examples, and for every statement with hypotheses one witness that they can be met together, at the boundary values
of its clauses. -/

namespace Sys2Proof.Tests

open Sys2Proof.Machine

/-! ### Small states -/

/-- D-link UP. -/
def up : State := { State.reset with dlt := { Dlt.reset with link := .up } }

/-- A-link LOCKED. -/
def locked : State := { State.reset with alr := { Alr.reset with lock := .locked } }

/-- D-link UP and one command frame in the queue. -/
def ready (f : CommandFrame) : State := { up with mx := { Mx.reset with queue := [f] } }

/-- D-link UP, another block set, and one command frame in the queue. -/
def withCe (ce : Ce) (f : CommandFrame) : State := { ready f with ce := ce }
def withFru (fru : Fru) (f : CommandFrame) : State := { ready f with fru := fru }

theorem ready_executes (f : CommandFrame) : (ready f).Executes f [] := ⟨rfl, rfl, Nat.zero_le 5⟩
theorem withCe_executes (ce : Ce) (f : CommandFrame) : (withCe ce f).Executes f [] := ⟨rfl, rfl, Nat.zero_le 5⟩
theorem withFru_executes (fru : Fru) (f : CommandFrame) : (withFru fru f).Executes f [] := ⟨rfl, rfl, Nat.zero_le 5⟩

/-- The state a row answers. -/
def after (i : Instr) (s : State) : State :=
  match exec i s with
  | .next t => t
  | _ => s

/-- The state a step answers. -/
def stepped (s : State) : State :=
  match step s with
  | .next t => t
  | _ => s

/-- An entry of mode ABOVE with high bound 1000 and hysteresis 50. -/
def above (n m : Byte) : Entry := ⟨.above, 1000, 0, 50, 1, n, m, some 4, some 5⟩

/-- A frame of one sample. -/
def frame (q : Byte) : Frame := ⟨q, 7, [⟨3, 710⟩], false⟩

def report : Report := ⟨1, 31, 4, 1, 1, .absent, 8, .stale⟩
def response : Response := ⟨9, 4, .done, []⟩

/-! ### Well-formedness: the check refuses each of these -/

theorem test_credit_frame_with_command_bytes_refused :
    (Instr.creditFrame (withCheck [65, 1, 16])).wellFormed = false := by decide +kernel
theorem test_command_frame_with_credit_bytes_refused :
    (Instr.commandFrame (withCheck [81, 5])).wellFormed = false := by decide +kernel
theorem test_unknown_command_with_defined_code_refused :
    (Instr.unknownCommand 1 16 []).wellFormed = false := by decide +kernel
theorem test_well_formed_frames_pass :
    (Instr.creditFrame (withCheck [81, 5])).wellFormed = true ∧
      (Instr.commandFrame (withCheck [65, 1, 16])).wellFormed = true ∧
      (Instr.unknownCommand 1 17 [3]).wellFormed = true := by decide +kernel

/-! ### Words from the spec -/

/-- The check over the nine characters 1 to 9 is 0x29B1 (R176). -/
theorem test_crc_of_nine_digits : crc [0x31, 0x32, 0x33, 0x34, 0x35, 0x36, 0x37, 0x38, 0x39] = 0x29B1 := by decide +kernel

/-- A RESYNC with tag 7, byte for byte (R179). -/
theorem test_resync_frame_read : readCommandFrame ([65, 7, 16] ++ halfBytes (crc [65, 7, 16])) = some ⟨7, 16, []⟩ := by
  decide +kernel

/-- A sample frame of one entry, byte for byte (R177): sequence 80, timestamp 258, channel 4, value −2. -/
theorem test_sample_frame_read :
    readArrival (withCheck [17, 80, 0, 0, 1, 2, 1, 4, 0xFF, 0xFE]) = .good 80 258 [⟨4, -2⟩] := by decide +kernel

/-- The table gives no row any bits. -/
theorem test_no_row_has_bits : decodeTableWord 8 65 = none := rfl

/-! ### Cases of the worked examples -/

/-- Chapter 3: with onset count 3, the third onset-qualifying sample in a row sets the channel and names factor 4. -/
theorem test_persistence :
    let e := above 3 2
    e.judge ⟨.clear, 0, some 970, some 59⟩ 990 = (.clear, 0, none) ∧
      e.judge ⟨.clear, 0, some 990, some 60⟩ 1005 = (.onset, 1, none) ∧
      e.judge ⟨.onset, 2, some 1005, some 65⟩ 1012 = (.active, 0, some 4) ∧
      e.judge ⟨.active, 0, some 940, some 69⟩ 960 = (.active, 0, none) ∧
      e.judge ⟨.release, 1, some 945, some 71⟩ 930 = (.clear, 0, some 5) := by decide +kernel

/-- R24: set above 1000, cleared at 950 or less, 951 to 1000 holds. -/
theorem test_hysteresis :
    (above 1 1).onsetQualifies none 1001 = true ∧ (above 1 1).onsetQualifies none 1000 = false ∧
      (above 1 1).releaseQualifies none 950 = true ∧ (above 1 1).releaseQualifies none 951 = false := by decide +kernel

/-- Chapter 1: two frames failing the check excuse two of the three frames missed. -/
theorem test_gap_is_partly_excused :
    let s := { locked with alr := { locked.alr with expected := some 42, excuse := 2 } }
    let t := after (.arrival (sampleFrameBytes 45 0 [⟨3, 5⟩])) s
    t.alr.counters.missed = 1 ∧ t.alr.expected = some 46 ∧ t.alr.excuse = 0 ∧
      t.alr.ifq.map (·.gapBefore) = [true] ∧ t.handed.acquisition.map (·.factor) = [29] := by decide +kernel

/-- Chapter 6: an accepted RETURN at depth 2 clears factor 13 and takes L back to 1. -/
theorem test_return_pops_one_level :
    let s := withFru { Fru.reset with gate := .opened, level := 3, saved := [0, 1], serial := 59 } ⟨3, 8, [2, 1, 13]⟩
    let t := after (.returnLevel 3 2 1 13) s
    t.fru.level = 1 ∧ t.fru.saved = [0] ∧ t.dlt.responses = [⟨3, 8, .done, [1, 1, 1, 13, 0]⟩] := by decide +kernel

/-- Chapter 8: the first entry of a channel in the frame is the one collected, marked when substituted. -/
theorem test_capture_takes_first_occurrence :
    let list : List SubstitutionEntry := [⟨8, some (.force 0), none⟩]
    let f : Frame := ⟨140, 0, [⟨3, 710⟩, ⟨8, 44⟩, ⟨3, 730⟩], false⟩
    let r : CaptureRecord := ⟨18, 0x108, 1, .waiting, Vector.replicate 32 none⟩
    CaptureRecord.atBoundary list f r = .inr ⟨18, 12, .captureComplete,
      [0, 0, 1, 8, 1, 1, 2, 3, 1, 2, 198, 140, 0, 8, 1, 0, 44, 140, 1]⟩ := by decide +kernel

/-- A step with a command frame in front queues it, and one with its execution in front answers it. -/
theorem test_step_queues_and_executes :
    stepped { up with pending := [.commandFrame (withCheck [65, 7, 16])] } = ready ⟨7, 16, []⟩ ∧
      stepped { ready ⟨7, 16, []⟩ with pending := [.resync 7] } =
        { up with dlt := { up.dlt with responses := [⟨7, 16, .done, [0, 0, 0]⟩] } } := by decide +kernel

/-! ### Witnesses: power-on reset and the acquisition link -/

/-- An asserted part that holds its reset values, and a row that is no release. -/
theorem witness_porst_asserted :
    (State.reset.powerOnReset).porst = .asserted ∧ (State.reset.powerOnReset).PorstOk ∧
      Instr.porstAssert ≠ .porstRelease := ⟨rfl, fun _ => rfl, by decide⟩

/-- A released part, and a good frame that meets a LOCKED and UNSYNCED tracker. -/
theorem witness_lock_gained :
    State.reset.porst = .released ∧ locked.porst = .released ∧ locked.alr.lock = .locked ∧
      locked.alr.expected = none ∧ readArrival (sampleFrameBytes 255 9 [⟨31, 5⟩]) = .good 255 9 [⟨31, 5⟩] := by
  decide +kernel

/-- The three cases of LOCK_LOST: already UNLOCKED, LOCKED and STALE, LOCKED and NEVER or FRESH. -/
theorem witness_lock_lost :
    State.reset.alr.lock = .unlocked ∧ locked.alr.lock = .locked ∧ locked.alr.freshness = .never ∧
      ({ locked.alr with freshness := .stale } : Alr).freshness = .stale ∧
      ({ locked.alr with freshness := .fresh } : Alr).freshness ≠ .stale := by decide

/-- Readings at the ends of the entry count: 1 and 16 are read, 0 and 17 are not, nor channel 32, nor a length
one byte off, nor 8 bytes. -/
theorem witness_arrival_readings :
    readArrival (sampleFrameBytes 0 1 (List.replicate 16 ⟨31, 2⟩)) = .good 0 1 (List.replicate 16 ⟨31, 2⟩) ∧
      readArrival (sampleFrameBytes 0 1 (List.replicate 17 ⟨31, 2⟩)) = .formatFail 0 1 ∧
      readArrival (withCheck [17, 3, 0, 0, 0, 1, 0]) = .formatFail 3 1 ∧
      readArrival (withCheck [17, 3, 0, 0, 0, 1, 1, 32, 0, 0]) = .formatFail 3 1 ∧
      readArrival (withCheck [17, 3, 0, 0, 0, 1, 1, 31, 0]) = .formatFail 3 1 ∧
      readArrival (withCheck [17, 3, 0, 0, 0, 1]) = .checkFail ∧
      readArrival (withCheck [18, 3, 0, 0, 0, 1, 1, 31, 0, 0]) = .checkFail ∧ readArrival [] = .checkFail := by
  decide +kernel

/-- CHECK-FAIL at an excuse count of 254 and of 255. -/
theorem witness_check_fail :
    locked.porst = .released ∧ locked.alr.lock = .locked ∧ readArrival [17] = .checkFail ∧
      (after (.arrival [17]) { locked with alr := { locked.alr with excuse := 254 } }).alr.excuse = 255 ∧
      (after (.arrival [17]) { locked with alr := { locked.alr with excuse := 255 } }).alr.excuse = 255 := by
  decide +kernel

/-- Distances 128 and 255 are LATE; 127 is in order. -/
theorem witness_late :
    readArrival (withCheck [17, 3, 0, 0, 0, 1, 0]) = .formatFail 3 1 ∧
      readArrival (sampleFrameBytes 8 0 [⟨0, 0⟩]) = .good 8 0 [⟨0, 0⟩] ∧
      (([136, 9] : List Byte).all fun e => 128 ≤ ((8 : Byte).toNat + 256 - e.toNat) % 256) = true ∧
      ((8 : Byte).toNat + 256 - (137 : Byte).toNat) % 256 = 127 := by decide +kernel

/-- An arrival in order with 7 and with 8 frames in the IFQ, UNSYNCED and 127 ahead, excused and not. -/
theorem witness_in_order :
    let a : Alr := { locked.alr with expected := some 137, excuse := 126, ifq := List.replicate 7 (frame 1) }
    let s : State := { locked with alr := a }
    let full : State := { locked with alr := { a with ifq := List.replicate 8 (frame 1), excuse := 127 } }
    let x : Instr := .arrival (sampleFrameBytes 8 0 [⟨0, 0⟩])
    s.alr.ifq.length ≤ 7 ∧ s.alr.excuse < 127 ∧ (after x s).alr.counters.accepted = 1 ∧
      (after x s).alr.counters.missed = 1 ∧ 8 ≤ full.alr.ifq.length ∧ ¬full.alr.excuse < 127 ∧
      (after x full).alr.counters.overrun = 1 ∧ (after x full).alr.counters.missed = 0 ∧
      locked.alr.expected = none ∧ (after x locked).alr.expected = some 9 := by decide +kernel

/-- A running and a stopped timer, and the clauses of a step on an empty queue. -/
theorem witness_timer_and_idle :
    let running : Nat → State := fun n =>
      { State.reset with alr := { Alr.reset with freshness := .fresh, timeout := 9, timer := .running n } }
    (running 1).pending = [] ∧ (running 1).porst = .released ∧ (running 1).ownEvent = none ∧
      (running 2).ownEvent = none ∧ (running 1).alr.timer = .running 1 ∧ (running 2).alr.timer = .running (0 + 2) ∧
      State.reset.ownEvent = none ∧ State.reset.alr.timer = .stopped ∧
      (State.reset.powerOnReset).ownEvent = none ∧ (State.reset.powerOnReset).porst = .asserted ∧
      (ready ⟨7, 16, []⟩).pending = [] ∧ (ready ⟨7, 16, []⟩).ownEvent = some (.resync 7) := by decide +kernel

/-! ### Witnesses: evaluation -/

/-- A valid OUTSIDE entry whose limits meet, and one with each of the other modes. -/
theorem witness_modes :
    (⟨.outside, 100, -100, 100, 1, 1, 64, none, none⟩ : Entry).Valid ∧
      ([.off, .above, .below, .outside, .inside, .step].map fun m => ({ above 1 1 with mode := m } : Entry).mode) =
        [Mode.off, .above, .below, .outside, .inside, .step] := by
  unfold Entry.Valid
  decide

/-- The entries for which a predicate holds for no value, or for one value alone. -/
theorem witness_predicates_at_the_ends :
    let top : Entry := { above 1 1 with high := 32767 }
    let bottom : Entry := { above 1 1 with mode := .below, low := 0x8000 }
    let lowest : Entry := { above 1 1 with high := 0x8001 }
    let highest : Entry := { above 1 1 with mode := .below, low := 32766 }
    let window : Mode → Entry := fun m => { above 1 1 with mode := m, high := 32767, low := 0x8000 }
    top.high.toInt = 32767 ∧ bottom.low.toInt = -32768 ∧
      lowest.high.toInt - lowest.hysteresis.toNat < -32768 ∧ lowest.releaseQualifies none 0x8000 = true ∧
      32767 < highest.low.toInt + highest.hysteresis.toNat ∧ highest.releaseQualifies none 32767 = true ∧
      (window .inside).low.toInt - (window .inside).hysteresis.toNat < -32768 ∧
      32767 < (window .inside).high.toInt + (window .inside).hysteresis.toNat ∧
      (window .outside).low.toInt = -32768 ∧ (window .outside).high.toInt = 32767 ∧
      (window .outside).releaseQualifies none (0x8000 + 50) = true ∧
      (window .outside).releaseQualifies none (0x8000 + 49) = false := by decide

/-- STEP with its step limit at the difference and one below it. -/
theorem witness_step_mode :
    let e : Entry := { above 1 1 with mode := .step, stepLimit := 100 }
    e.onsetQualifies (some 500) 601 = true ∧ e.onsetQualifies (some 500) 600 = false ∧
      e.releaseQualifies (some 500) 600 = true ∧ e.onsetQualifies none 600 = false ∧
      e.onsetQualifies (some 0x8000) 32767 = true := by decide

/-- Every branch of the state machine: counts of 1, 2 and 3, the run one short of its count and two short. -/
theorem witness_transitions :
    ([(1, ChannelState.clear, 0), (2, .clear, 0), (2, .onset, 1), (3, .onset, 1)].map fun x =>
        ((above x.1 x.1).transition x.2.1 x.2.2 true false).1) = [.active, .onset, .active, .onset] ∧
      ([(1, ChannelState.active, 0), (2, .active, 0), (2, .release, 1), (3, .release, 1)].map fun x =>
        ((above x.1 x.1).transition x.2.1 x.2.2 false true).1) = [.clear, .release, .clear, .release] ∧
      ([ChannelState.clear, .onset, .active, .release].map fun c =>
        ((above 3 3).transition c 1 false false).1) = [.clear, .clear, .active, .active] := by decide

/-! ### Witnesses: frame boundary and declaration -/

/-- A frame in the IFQ and the CE free in each of three ways, and held. -/
theorem witness_boundary_free_or_held :
    let s : State := { up with alr := { Alr.reset with ifq := [frame 1] } }
    let full : List OutputFrame := List.replicate 8 ⟨0, 0, false, []⟩
    s.porst = .released ∧ s.alr.ifq = frame 1 :: [] ∧ s.dlt.forwardQueue.length ≤ 7 ∧ s.ce.forwarding = .on ∧
      s.dlt.link = .up ∧ ({ Ce.reset with forwarding := .off } : Ce).forwarding = .off ∧
      State.reset.dlt.link = .down ∧ State.reset.alr.ifq = [] ∧
      8 ≤ ({ s.dlt with forwardQueue := full } : Dlt).forwardQueue.length := by decide

/-- A list that meets its invariant with a pending HOLD, and the commit record in its three states. -/
theorem witness_boundary_lists :
    let live := (Vector.replicate 32 Live.reset).set 7 ⟨.clear, 0, some 300, none⟩
    let s : State := { up with
      alr := { Alr.reset with ifq := [frame 1] }
      ce := { Ce.reset with
        live := live
        commit := some ⟨4, false⟩
        substitutions := [⟨7, none, some .hold⟩, ⟨3, some (.force 1), some .remove⟩, ⟨0, none, some (.force 2)⟩]
        captures := [⟨9, 8, 1, .waiting, Vector.replicate 32 none⟩] }
      dlt := { up.dlt with reservations := 2 } }
    s.SubstitutionsOk ∧ s.ce.commit = some ⟨4, false⟩ ∧ s.ce.commit ≠ none ∧ State.reset.ce.commit = none ∧
      (after .frameBoundary s).dlt.responses.map (·.code) = [.commitDone, .captureComplete] ∧
      (after .frameBoundary s).ce.substitutions = [⟨7, some (.hold 300), none⟩, ⟨0, some (.force 2), none⟩] := by
  unfold State.SubstitutionsOk
  decide +kernel

/-- A declaration handed over while a commit is pending and a record is COLLECTING. -/
theorem witness_declaration :
    let s : State := { up with
      ce := { Ce.reset with
        commit := some ⟨4, false⟩
        captures := [⟨9, 8, 3, .collecting 1, Vector.replicate 32 none⟩] }
      dlt := { up.dlt with reservations := 2 }
      handed := { Handed.reset with declarations := 1 } }
    s.handed.declarations = 0 + 1 ∧ State.reset.handed.declarations = 0 ∧
      (after .declarationHandedToCe s).dlt.responses =
        [⟨4, 4, .commitDone, [2, 0, 0, 0]⟩, ⟨9, 12, .captureStale, [0, 0, 0, 8, 3, 2, 0, 3, 0, 0, 0, 0, 0]⟩] := by
  decide +kernel

/-! ### Witnesses: factors and reports -/

/-- Raises handed over by each source, and none. -/
theorem witness_raises :
    let h : Handed := ⟨[⟨31, .absent⟩], [⟨27, .absent⟩], 0⟩
    h.acquisition = ⟨31, .absent⟩ :: [] ∧ h.condition = ⟨27, .absent⟩ :: [] ∧ Handed.reset.acquisition = [] ∧
      Handed.reset.condition = [] ∧ ((⟨true, 254, .absent⟩ : FactorRecord).raise .absent).count = 255 ∧
      ((⟨true, 255, .absent⟩ : FactorRecord).raise .absent).count = 255 := by decide

/-- A selection that has a first candidate: factor 31 at level 4 ahead of every other. -/
theorem witness_selection :
    let fru : Fru := { Fru.reset with gate := .opened, factors := Fru.reset.factors.set 31 ⟨true, 1, .absent⟩ }
    fru.gate = .opened ∧ fru.slot = none ∧ up.dlt.link = .up ∧ fru.candidate 31 = true ∧
      fru.level < fru.effectiveLevel 31 ∧ (7 : GroupNo).val = (31 : FactorNo).val / 4 ∧
      (∀ h : FactorNo, fru.candidate h = true → h = 31) ∧
      (∀ f : FactorNo, Fru.reset.candidate f = true → Fru.reset.effectiveLevel f ≤ Fru.reset.level) := by
  decide +kernel

/-! ### Witnesses: the delivery link -/

/-- Grants of 1, 63 and 64, a grant of 0, and a credit frame of 5 bytes. -/
theorem witness_credit_frames :
    (([[81, 1], [81, 63], [81, 64], [81, 0], [81, 1, 1]] : List (List Byte)).all fun b =>
        isCreditFrame (withCheck b)) = true ∧
      (withCheck [81, 1]).length = 4 ∧ ((withCheck [81, 63]).getD 1 0).toNat = 63 ∧
      (withCheck [81, 1, 1]).length ≠ 4 ∧
      (after (.creditFrame (withCheck [81, 63])) { up with dlt := { up.dlt with credits := 1 } }).dlt.credits = 63 := by
  decide +kernel

/-- A dropped frame, and a good one at 3 and at 4 queued frames. -/
theorem witness_command_frames :
    let q : Nat → Mx := fun n => { Mx.reset with queue := List.replicate n ⟨0, 16, []⟩ }
    isCreditFrame (withCheck [65, 7, 16]) = false ∧ readCommandFrame (withCheck [65, 7, 16]) = some ⟨7, 16, []⟩ ∧
      isCreditFrame (withCheck [65, 7, 16, 0]) = false ∧ readCommandFrame (withCheck [65, 7, 16, 0]) = none ∧
      (q 3).queue.length ≤ 3 ∧ 4 ≤ (q 4).queue.length := by decide +kernel

/-- A free lane with each source in turn, and each condition failing. -/
theorem witness_transmission_start :
    let d : Dlt := { up.dlt with credits := 1, responses := [response], forwardQueue := [⟨0, 0, false, []⟩] }
    d.link = .up ∧ d.transmitting = none ∧ 1 ≤ d.credits ∧ d.responses = response :: [] ∧
      d.forwardQueue = ⟨0, 0, false, []⟩ :: [] ∧ up.dlt.responses = [] ∧
      ({ Fru.reset with slot := some report } : Fru).slot = some report ∧ up.fru.slot = none ∧ up.dlt.credits = 0 ∧
      up.dlt.forwardQueue = [] ∧ State.reset.dlt.link = .down ∧
      ({ d with transmitting := some (.response response) } : Dlt).transmitting ≠ none := by decide

/-! ### Witnesses: commands on the channel condition table -/

/-- READ_ENTRY out of range by its channel and by its bank, and at channel 31 in each bank. -/
theorem witness_read_entry :
    (ready ⟨5, 1, [32, 0]⟩).Executes ⟨5, 1, [32, 0]⟩ [] ∧ (ready ⟨5, 1, [31, 2]⟩).Executes ⟨5, 1, [31, 2]⟩ [] ∧
      (ready ⟨5, 1, [31, 1]⟩).Executes ⟨5, 1, [31, 1]⟩ [] ∧ 31 < (32 : Byte).toNat ∧ 1 < (2 : Byte).toNat ∧
      (31 : Byte).toNat = (31 : Channel).val ∧ (1 : Byte).toNat ≤ 1 :=
  ⟨ready_executes _, ready_executes _, ready_executes _, by decide⟩

/-- The entry of a WRITE-ENTRY with every field at a bound: it fails no check. -/
def boundArgs : EntryArgs := ⟨3, 4095, 0xF001, 4095, 32767, 64, 1, 3, 27, 27⟩

/-- WRITE_ENTRY in its four cases. -/
theorem witness_write_entry :
    (∀ f, (withCe { Ce.reset with commit := some ⟨8, false⟩ } f).Executes f []) ∧ (∀ f, (ready f).Executes f []) ∧
      31 < (32 : Byte).toNat ∧ (31 : Byte).toNat = (31 : Channel).val ∧ up.ce.commit = none ∧
      EntryArgs.failedCheck boundArgs = none ∧ EntryArgs.failedCheck { boundArgs with mode := 6 } = some 1 :=
  ⟨fun f => withCe_executes _ f, ready_executes, by decide⟩

/-- Each of the nine checks fails one step past its bound. -/
theorem witness_entry_checks :
    ([{ boundArgs with mode := 6 }, { boundArgs with hysteresis := 4096 }, { boundArgs with stepLimit := 32768 },
        { boundArgs with onsetCount := 65 }, { boundArgs with releaseCount := 0 }, { boundArgs with onsetFactor := 28 },
        { boundArgs with releaseFactor := 28 }, { boundArgs with high := 0xF000 },
        { boundArgs with high := 4094 }].map EntryArgs.failedCheck) =
      [some 1, some 2, some 3, some 4, some 5, some 6, some 7, some 8, some 9] := by decide

/-- LOAD_SHADOW and COMMIT with a pending commit, without one, and while the A-link delivers. -/
theorem witness_load_and_commit :
    let delivering : State := { ready ⟨5, 4, []⟩ with alr := { Alr.reset with lock := .locked, freshness := .fresh } }
    (withCe { Ce.reset with commit := some ⟨8, true⟩ } ⟨5, 3, []⟩).Executes ⟨5, 3, []⟩ [] ∧
      (ready ⟨5, 3, []⟩).Executes ⟨5, 3, []⟩ [] ∧ delivering.Executes ⟨5, 4, []⟩ [] ∧ delivering.ce.commit = none ∧
      delivering.alr.lock = .locked ∧ delivering.alr.freshness = .fresh ∧ (ready ⟨5, 4, []⟩).alr.lock = .unlocked ∧
      locked.alr.freshness ≠ .fresh :=
  ⟨withCe_executes _ _, ready_executes _, ⟨rfl, rfl, Nat.zero_le 5⟩, by decide⟩

/-! ### Witnesses: commands on the factor and report unit -/

/-- SET_GROUP, READ_GROUP, CLEAR_FACTORS and REPORT_GATE at the ends of their arguments and one past them. -/
theorem witness_group_commands :
    (∀ f, (ready f).Executes f []) ∧ 7 < (8 : Byte).toNat ∧ (7 : Byte).toNat = (7 : GroupNo).val ∧
      3 < (4 : Byte).toNat ∧ (3 : Byte).toNat = (3 : Fin 4).val ∧ 15 < (16 : Byte).toNat ∧
      (15 : Byte).toNat = (15 : BitVec 4).toNat ∧ (15 : Byte).toNat ≤ 15 ∧ 1 < (2 : Byte).toNat ∧
      (1 : Byte).toNat ≤ 1 := ⟨ready_executes, by decide⟩

/-- RETURN: out of range, at depth 0, with the slot held, with another depth, and accepted with factor 31, with a
presence bit of 0 and a factor byte of 255. -/
theorem witness_return :
    let served : Fru := { Fru.reset with level := 4, saved := [0] }
    (∀ f, (withFru served f).Executes f []) ∧
      (∀ f, (withFru { served with slot := some report } f).Executes f []) ∧ (∀ f, (ready f).Executes f []) ∧
      (0 : Byte).toNat = 0 ∧ 4 < (5 : Byte).toNat ∧ ((1 : Byte).getLsbD 0 = true ∧ 31 < (32 : Byte).toNat) ∧
      1 ≤ (1 : Byte).toNat ∧ (4 : Byte).toNat ≤ 4 ∧ Fru.reset.saved.length = 0 ∧ served.saved.length ≠ 0 ∧
      served.saved = [] ++ [0] ∧ served.slot = none ∧ (1 : Byte).toNat = served.saved.length ∧
      (2 : Byte).toNat ≠ served.saved.length ∧ (254 : Byte).getLsbD 0 = false ∧
      (31 : Byte).toNat = (31 : FactorNo).val :=
  ⟨fun f => withFru_executes _ f, fun f => withFru_executes _ f, ready_executes, by decide⟩

/-! ### Witnesses: commands on the two lists and on several blocks -/

/-- SUBSTITUTE: out of range, HOLD without and with a previous value, a list of 7 and of 8 without the channel, a
list that holds it, and RELEASE either way. -/
theorem witness_substitute :
    let live := (Vector.replicate 32 Live.reset).set 31 ⟨.clear, 0, some 1, none⟩
    let list : Nat → List SubstitutionEntry := fun n =>
      ((List.finRange 32).take n).map fun c => ⟨c, some (.force 0), some .remove⟩
    let ce : Nat → Ce := fun n => { Ce.reset with live := live, substitutions := list n }
    (∀ n f, (withCe (ce n) f).Executes f []) ∧ 31 < (32 : Byte).toNat ∧ 2 < (3 : Byte).toNat ∧
      ((ce 0).live[31]).previous ≠ none ∧ (Ce.reset.live[31]).previous = none ∧
      (ce 7).substitutions.length ≤ 7 ∧ 8 ≤ (ce 8).substitutions.length ∧
      (∀ e ∈ (ce 8).substitutions, e.channel ≠ 31) ∧
      (ce 8).substitutions = (ce 7).substitutions ++ ⟨7, some (.force 0), some .remove⟩ :: [] ∧
      (∀ x ∈ (ce 7).substitutions, x.channel ≠ 7) :=
  ⟨fun _ f => withCe_executes _ f, by decide +kernel⟩

/-- CAPTURE: an empty set, limits 0, 64 and 65, a tag in use, a list of 3 and of 4; CANCEL_CAPTURE of a WAITING and of
a COLLECTING record and of no record. -/
theorem witness_captures :
    let list : Nat → List CaptureRecord := fun n =>
      ((List.finRange 4).take n).map fun k =>
        ⟨BitVec.ofNat 8 k.val, 8, 64, if k = 0 then .waiting else .collecting 63, Vector.replicate 32 none⟩
    let ce : Nat → Ce := fun n => { Ce.reset with captures := list n }
    (∀ n f, (withCe (ce n) f).Executes f []) ∧ (0 : Word) = 0 ∧ (0 : Byte).toNat = 0 ∧ 64 < (65 : Byte).toNat ∧
      (0x80000000 : Word) ≠ 0 ∧ 1 ≤ (64 : Byte).toNat ∧ (64 : Byte).toNat ≤ 64 ∧ (ce 3).captures.length ≤ 3 ∧
      4 ≤ (ce 4).captures.length ∧ (∀ r ∈ (ce 4).captures, r.tag ≠ 4) ∧
      ((ce 4).captures.map fun r => (r.tag, r.phase)) =
        [(0, .waiting)] ++ (1, .collecting 63) :: [(2, .collecting 63), (3, .collecting 63)] :=
  ⟨fun _ f => withCe_executes _ f, by decide +kernel⟩

/-- READ_SUBSTITUTIONS, READ_STATUS, SET_LINK, RESYNC and an unknown code at the ends of their arguments. -/
theorem witness_other_commands :
    (∀ f, (ready f).Executes f []) ∧ 1 < (2 : Byte).toNat ∧ (1 : Byte) = 1 ∧ (0 : Byte) = 0 ∧ (1 : Byte).toNat ≤ 1 ∧
      (0 : Byte).toNat = 0 ∧ 16 < (17 : Byte).toNat := ⟨ready_executes, by decide⟩

/-- A command that waits: another frame at the head, and no free place. -/
theorem witness_waiting_command :
    commandOf (.resync 7) = some ⟨7, 16, []⟩ ∧ (ready ⟨8, 16, []⟩).porst = .released ∧
      (ready ⟨8, 16, []⟩).mx.queue.head? ≠ some ⟨7, 16, []⟩ ∧
      (let d : Dlt := { up.dlt with responses := List.replicate 1 response, reservations := 5 }
       6 ≤ d.responses.length + d.reservations) := by decide

/-- An execution at its turn with the response queue's invariant, and a refusal of it. -/
theorem witness_execution :
    commandOf (.reportGate 7 2) = some ⟨7, 9, [2]⟩ ∧ (Instr.reportGate 7 2).wellFormed = true ∧
      (ready ⟨7, 9, [2]⟩).Executes ⟨7, 9, [2]⟩ [] ∧ (ready ⟨7, 9, [2]⟩).ResponsesOk ∧
      exec (.reportGate 7 2) (ready ⟨7, 9, [2]⟩) = .next (after (.reportGate 7 2) (ready ⟨7, 9, [2]⟩)) ∧
      (after (.reportGate 7 2) (ready ⟨7, 9, [2]⟩)).dlt.responses =
        (ready ⟨7, 9, [2]⟩).dlt.responses ++ [⟨7, 9, .badArgument, [2]⟩] ∧
      ResponseCode.badArgument ∈ ([.badArgument, .badEntry] : List ResponseCode) :=
  ⟨rfl, rfl, ready_executes _, ⟨by decide, rfl, by decide⟩, rfl, by decide, by decide⟩

/-! ### Witnesses: invariants and frames -/

/-- The invariants hold together, and a step from such a state answers. -/
theorem witness_invariants :
    let s : State := { ready ⟨7, 16, []⟩ with pending := [.resync 7] }
    (s.AlrOk ∧ s.FramesOk) ∧ (s.SubstitutionsOk ∧ s.CapturesOk) ∧ (s.QueuesOk ∧ s.ResponsesOk) ∧
      (s.DownOk ∧ s.PorstOk ∧ s.CommandsOk) ∧ (s.FactorsOk ∧ s.SourcesOk ∧ s.StackOk) ∧
      step s = .next (stepped s) := by
  refine ⟨⟨⟨by decide, by decide, Or.inl (by decide)⟩, fun f hf => (nomatch hf)⟩,
    ⟨⟨by decide, by decide, fun e he => (nomatch he)⟩,
      ⟨by decide, by decide, fun r hr => (nomatch hr)⟩⟩,
    ⟨⟨by decide, by decide, by decide⟩, ⟨by decide, rfl, by decide⟩⟩,
    ⟨fun h => absurd h (by decide), fun h => absurd h (by decide), ?_⟩,
    ⟨?_, ⟨fun x hx => (nomatch hx), fun x hx => (nomatch hx)⟩,
      ⟨by decide, by decide, by decide, fun r hr => (nomatch hr)⟩⟩, rfl⟩
  · intro f hf n hn
    simp only [ready, List.mem_singleton] at hf
    subst hf
    exact Option.some.inj hn
  · unfold State.FactorsOk FactorRecord.Ok
    decide +kernel

/-- A table with every channel in ONSET, its run one short of the onset count. -/
theorem witness_table :
    ({ up with ce := { Ce.reset with
      active := Vector.replicate 32 (above 3 64)
      live := Vector.replicate 32 ⟨.onset, 2, some 1001, some 9⟩ } } : State).TableOk := by
  intro c
  simp only [Fin.getElem_fin, Ce.reset, Vector.getElem_replicate]
  refine ⟨?_, ?_, by decide, by decide⟩ <;> unfold Entry.Valid <;> decide

/-- A well-formed command row with its frame, and sample lists of 1 and of 16 entries. -/
theorem witness_frames_read_back :
    (Instr.unknownCommand 1 255 [1, 2]).wellFormed = true ∧
      commandOf (.unknownCommand 1 255 [1, 2]) = some ⟨1, 255, [1, 2]⟩ ∧
      1 ≤ (List.replicate 1 (⟨0, 0⟩ : Sample)).length ∧ (List.replicate 16 (⟨0, 0⟩ : Sample)).length ≤ 16 := by decide

end Sys2Proof.Tests
end

section
/-! Reading an arrival: tests 1 and 2 of R4 over the byte positions of the sample frame layout (R177). -/

namespace Sys2Proof.Machine

/-- Tests 1 and 2 of R4 as one chain of conditions on byte positions. -/
theorem readArrival_eq (frame : List Byte) :
    let n := (frame.getD 6 0).toNat
    let sequence := frame.getD 1 0
    let timestamp := wordOf (frame.getD 2 0) (frame.getD 3 0) (frame.getD 4 0) (frame.getD 5 0)
    readArrival frame =
      if checkGood frame = false ∨ frame.getD 0 0 ≠ 17 ∨ frame.length < 9 then .checkFail
      else if n = 0 ∨ 16 < n ∨ frame.length ≠ 9 + 3 * n then .formatFail sequence timestamp
      else (readSamples n (frame.drop 7)).elim (.formatFail sequence timestamp) (.good sequence timestamp) := by
  cases hcheck : checkGood frame with
  | false => simp [readArrival, hcheck]
  | true =>
    match frame with
    | kind :: q :: t3 :: t2 :: t1 :: t0 :: count :: rest =>
      have hcount : count = 0 ↔ count.toNat = 0 := by simp [BitVec.toNat_eq]
      simp only [readArrival, hcheck, Bool.not_true, Bool.false_eq_true, if_false, Config.kindSample, hcount]
      cases hread : readSamples count.toNat rest <;> simp [hread]
    | [] | [_] | [_, _] | [_, _, _] | [_, _, _, _] | [_, _, _, _, _] | [_, _, _, _, _, _] =>
      simp [readArrival, hcheck]

/-- The bytes from position k on, by their positions in the whole run. -/
theorem getD_drop (l : List Byte) (k i : Nat) : (l.drop k).getD i 0 = l.getD (k + i) 0 := by
  simp [List.getD_eq_getElem?_getD]

/-- What `readSamples` makes of the entries of a frame of 9 + 3n bytes, by their byte positions (R177). -/
theorem readSamples_drop (frame : List Byte) (n : Nat) (hlen : frame.length = 9 + 3 * n) :
    ((∃ i < n, 31 < (frame.getD (7 + 3 * i) 0).toNat) → readSamples n (frame.drop 7) = none) ∧
    ((∀ i < n, (frame.getD (7 + 3 * i) 0).toNat ≤ 31) →
      ∃ xs, readSamples n (frame.drop 7) = some xs ∧ xs.length = n ∧
        ∀ (i : Nat) (x : Sample), xs[i]? = some x →
          x.channel.val = (frame.getD (7 + 3 * i) 0).toNat ∧
          x.value = halfOf (frame.getD (8 + 3 * i) 0) (frame.getD (9 + 3 * i) 0)) := by
  have hspec := readSamples_spec n (frame.drop 7) (by simp; omega)
  simp only [getD_drop] at hspec
  have hhigh : ∀ i, 8 + 3 * i = 7 + (3 * i + 1) := by omega
  have hlow : ∀ i, 9 + 3 * i = 7 + (3 * i + 2) := by omega
  simpa only [hhigh, hlow] using hspec

/-- An arrival is a CHECK-FAIL by its check, its kind code or its length (R4 test 1). -/
theorem readArrival_checkFail_iff (frame : List Byte) :
    readArrival frame = .checkFail ↔ checkGood frame = false ∨ frame.getD 0 0 ≠ 17 ∨ frame.length < 9 := by
  rw [readArrival_eq]
  split
  next h => exact ⟨fun _ => h, fun _ => rfl⟩
  next h =>
    refine ⟨fun e => ?_, fun h' => absurd h' h⟩
    split at e
    · cases e
    · cases hs : readSamples (frame.getD 6 0).toNat (frame.drop 7) <;> rw [hs] at e <;> cases e

/-- A readable frame with a good header has as many entries as its header counts, 1 to 16 (R177). -/
theorem readArrival_good_length {frame : List Byte} {q : Byte} {ts : Word} {xs : List Sample}
    (h : readArrival frame = .good q ts xs) : 1 ≤ xs.length ∧ xs.length ≤ 16 := by
  rw [readArrival_eq] at h
  split at h
  · cases h
  split at h
  · cases h
  next hformat =>
    push Not at hformat
    obtain ⟨hpos, hmax, hlen⟩ := hformat
    obtain ⟨hbad, hgood⟩ := readSamples_drop frame _ hlen
    by_cases hc : ∀ i < (frame.getD 6 0).toNat, (frame.getD (7 + 3 * i) 0).toNat ≤ 31
    · obtain ⟨ys, hys, hylen, -⟩ := hgood hc
      rw [hys] at h
      cases h
      omega
    · push Not at hc
      rw [hbad hc] at h
      cases h

end Sys2Proof.Machine

namespace Sys2Proof.Proofs

open Sys2Proof.Machine

/-- Settles O6, from `readArrival_eq` and the entries at their byte positions. -/
theorem arrivalIsReadByItsLayout : Obligations.ArrivalIsReadByItsLayout := by
  unfold Obligations.ArrivalIsReadByItsLayout
  intro frame
  refine ⟨readArrival_checkFail_iff frame, fun hcheck hkind hlong => ?_⟩
  intro n timestamp
  have hheader : ¬(checkGood frame = false ∨ frame.getD 0 0 ≠ 17 ∨ frame.length < 9) := by
    rintro (h | h | h)
    · rw [hcheck] at h
      cases h
    · exact h hkind
    · omega
  rw [readArrival_eq, if_neg hheader]
  constructor
  · intro hbad
    split
    · rfl
    next hformat =>
      push Not at hformat
      obtain ⟨hpos, hmax, hlen⟩ := hformat
      have hchannel : ∃ i < n, 31 < (frame.getD (7 + 3 * i) 0).toNat := by
        rcases hbad with h | h | h | h
        · exact absurd h hpos
        · omega
        · exact absurd hlen h
        · exact h
      rw [(readSamples_drop frame n hlen).1 hchannel]
      rfl
  · intro hpos hmax hlen hchannels
    have hformat : ¬(n = 0 ∨ 16 < n ∨ frame.length ≠ 9 + 3 * n) := by omega
    obtain ⟨xs, hxs, hrest⟩ := (readSamples_drop frame n hlen).2 hchannels
    refine ⟨xs, ?_, hrest⟩
    rw [if_neg hformat, hxs]
    rfl

end Sys2Proof.Proofs
end

section
/-! The acquisition link receiver: its timer, the distance of a frame, an arrival by its class, and a row at its turn;
with them the statements about its four events and about the idle part. -/

namespace Sys2Proof.Machine

/-! ### The timer of the ALR (R9, R12, R13, R15) -/

/-- A restart as an update of the timer alone (R9, R12). -/
theorem Alr.restartTimer_eq (a : Alr) :
    a.restartTimer = { a with timer := if a.timer = .stopped then .stopped else .running a.timeout.toNat } := by
  unfold Alr.restartTimer
  split
  next h => rw [if_pos h, ← h]
  next n h => rw [if_neg (by simp [h])]

/-- A start as an update of the timer alone (R13). -/
theorem Alr.startTimer_eq (a : Alr) :
    a.startTimer = { a with timer := if a.timeout = 0 then a.timer else .running a.timeout.toNat } := by
  unfold Alr.startTimer
  split <;> rfl

/-! ### The distance of a good frame (R7) -/

theorem Alr.distance_unsynced {a : Alr} (h : a.expected = none) (q : Byte) : a.distance q = 0 := by
  simp [Alr.distance, h]

/-- The distance from the expected sequence, mod 256. -/
theorem Alr.distance_expected {a : Alr} {e : Byte} (h : a.expected = some e) (q : Byte) :
    a.distance q = (q.toNat + 256 - e.toNat) % 256 := by
  have he := e.isLt
  simp only [Alr.distance, h, BitVec.toNat_sub]
  omega

/-! ### A row at its turn -/

/-- An event that is no command and not PORST's acts while PORST is released. -/
theorem exec_event_released {i : Instr} {s : State} (hp : s.porst = .released) (hc : commandOf i = none)
    (ha : i ≠ .porstAssert) (hr : i ≠ .porstRelease) : exec i s = .next (eventEffect i s) := by
  rw [exec_event hc ha hr, State.taking_released _ hp]

/-- An arrival while PORST is released. -/
theorem exec_arrival_released {s : State} (hp : s.porst = .released) (frame : List Byte) :
    exec (.arrival frame) s = .next (s.arrive frame) :=
  exec_event_released hp rfl nofun nofun

/-- A command at its turn acts on the state without its frame (R162, R163). -/
theorem exec_command_executes {i : Instr} {f : CommandFrame} {s : State} {rest : List CommandFrame}
    (hc : commandOf i = some f) (hw : i.wellFormed = true) (hx : s.Executes f rest) :
    exec i s = .next (commandAct f i (s.dequeued rest)) := by
  rw [exec_command hc hw, State.taking_released _ hx.1, State.execute_eq hx]

/-! ### An arrival by its class (R4) -/

theorem State.arrive_unlocked {s : State} (h : s.alr.lock = .unlocked) (frame : List Byte) :
    s.arrive frame = s := by
  simp [State.arrive, h]

theorem State.arrive_checkFail {s : State} {frame : List Byte} (hl : s.alr.lock = .locked)
    (hr : readArrival frame = .checkFail) :
    s.arrive frame = (s.onAlr Alr.takeCheckFail).handAcquisition [⟨Config.linkError, .absent⟩] := by
  simp [State.arrive, hl, hr]

theorem State.arrive_formatFail {s : State} {frame : List Byte} {q : Byte} {ts : Word} (hl : s.alr.lock = .locked)
    (hr : readArrival frame = .formatFail q ts) :
    s.arrive frame = (s.onAlr Alr.takeFormatFail).handAcquisition [⟨Config.linkError, frameCause q ts⟩] := by
  simp [State.arrive, hl, hr]

theorem State.arrive_late {s : State} {frame : List Byte} {q : Byte} {ts : Word} {xs : List Sample}
    (hl : s.alr.lock = .locked) (hr : readArrival frame = .good q ts xs) (hd : 128 ≤ s.alr.distance q) :
    s.arrive frame = (s.onAlr Alr.takeLate).handAcquisition [⟨Config.linkError, frameCause q ts⟩] := by
  simp [State.arrive, hl, hr, hd]

theorem State.arrive_inOrder {s : State} {frame : List Byte} {q : Byte} {ts : Word} {xs : List Sample}
    (hl : s.alr.lock = .locked) (hr : readArrival frame = .good q ts xs) (hd : s.alr.distance q ≤ 127) :
    s.arrive frame = s.takeInOrder q ts xs := by
  have hlate : ¬128 ≤ s.alr.distance q := by omega
  simp [State.arrive, hl, hr, hlate]

/-- Gap accounting (R8): with fewer excuses than frames missed, the difference is counted and GAP handed over. -/
def State.accountGap (q : Byte) (ts : Word) (s : State) : State :=
  if s.alr.excuse < s.alr.distance q then
    (s.onAlr (Alr.countMissed (s.alr.distance q))).handAcquisition [⟨Config.gap, frameCause q ts⟩]
  else s

/-- Gap accounting as an update of the missed counter and of the raises handed over. -/
theorem State.accountGap_eq (q : Byte) (ts : Word) (s : State) :
    s.accountGap q ts = { s with
      alr := { s.alr with counters := { s.alr.counters with
        missed := if s.alr.excuse < s.alr.distance q then
          s.alr.counters.missed + BitVec.ofNat 32 (s.alr.distance q - s.alr.excuse) else s.alr.counters.missed } }
      handed := if s.alr.excuse < s.alr.distance q then s.handed.linkRaise 29 (some q) (some ts)
        else s.handed } := by
  unfold State.accountGap
  split <;> rfl

/-- With room in the IFQ a frame that is not LATE is ACCEPTED after gap accounting (R4, R13). -/
theorem State.takeInOrder_accepted {s : State} (q : Byte) (ts : Word) (xs : List Sample)
    (h : s.alr.ifq.length ≤ 7) :
    s.takeInOrder q ts xs = (s.accountGap q ts).onAlr
      (Alr.takeAccepted ⟨q, ts, xs, decide (s.alr.excuse < s.alr.distance q)⟩) := by
  have hroom : s.alr.ifq.length < Config.ifqCapacity := Nat.lt_succ_of_le h
  simp [State.takeInOrder, State.accountGap, hroom]

/-- With a full IFQ a frame that is not LATE is an OVERRUN after gap accounting (R4, R12). -/
theorem State.takeInOrder_overrun {s : State} (q : Byte) (ts : Word) (xs : List Sample)
    (h : 8 ≤ s.alr.ifq.length) :
    s.takeInOrder q ts xs = ((s.accountGap q ts).onAlr (Alr.takeOverrun q)).handAcquisition
      [⟨Config.overrun, frameCause q ts⟩] := by
  have hfull : ¬s.alr.ifq.length < Config.ifqCapacity := Nat.not_lt.mpr h
  simp [State.takeInOrder, State.accountGap, hfull]

/-- The ALR after an ACCEPTED frame (R7, R13, R15). -/
theorem Alr.takeAccepted_eq (f : Frame) (a : Alr) :
    a.takeAccepted f = { a with
      ifq := a.ifq ++ [f]
      expected := some (f.sequence + 1)
      excuse := 0
      freshness := .fresh
      timer := if a.timeout = 0 then a.timer else .running a.timeout.toNat
      counters := { a.counters with accepted := a.counters.accepted + 1 } } := by
  unfold Alr.takeAccepted
  rw [Alr.startTimer_eq]
  rfl

/-- The ALR after an OVERRUN (R7, R12, R15). -/
theorem Alr.takeOverrun_eq (q : Byte) (a : Alr) :
    a.takeOverrun q = { a with
      expected := some (q + 1)
      excuse := 0
      timer := if a.timer = .stopped then .stopped else .running a.timeout.toNat
      counters := { a.counters with overrun := a.counters.overrun + 1 } } := by
  unfold Alr.takeOverrun
  rw [Alr.restartTimer_eq]
  rfl

/-- The ALR after a LATE frame (R9, R15). -/
theorem Alr.takeLate_eq (a : Alr) :
    a.takeLate = { a with
      timer := if a.timer = .stopped then .stopped else .running a.timeout.toNat
      counters := { a.counters with late := a.counters.late + 1 } } := by
  unfold Alr.takeLate
  rw [Alr.restartTimer_eq]

/-- The saturating excuse count of R10. -/
theorem min_excuseCap_succ (n : Nat) : min Config.excuseCap (n + 1) = if n < 255 then n + 1 else 255 := by
  unfold Config.excuseCap
  split <;> omega

end Sys2Proof.Machine

namespace Sys2Proof.Proofs

open Sys2Proof.Machine

/-- Settles O5, by the lock state and the freshness that LOCK_LOST meets. -/
theorem lockLostDeclaresStale : Obligations.LockLostDeclaresStale := by
  unfold Obligations.LockLostDeclaresStale
  intro s hp
  have hexec : exec .lockLost s = .next s.loseLock := exec_event_released hp rfl nofun nofun
  rw [hexec]
  refine ⟨fun hl => ?_, fun hl hf => ?_, fun hl hf => ?_⟩
  · simp [State.loseLock, hl]
  · simp [State.loseLock, hl, hf, State.onAlr]
  · cases hfresh : s.alr.freshness with
    | stale => exact absurd hfresh hf
    | never | fresh =>
      simp [State.loseLock, hl, hfresh, State.declareStale_eq, State.declared, State.onAlr, Handed.linkRaise]

/-- Settles O7: the row is `State.arrive`, and the excuse count saturates by `min_excuseCap_succ`. -/
theorem checkFailArrivalIsCountedAndExcuses : Obligations.CheckFailArrivalIsCountedAndExcuses := by
  unfold Obligations.CheckFailArrivalIsCountedAndExcuses
  intro s frame hp
  rw [exec_arrival_released hp]
  refine ⟨fun hl => ?_, fun hl hr => ?_⟩
  · rw [State.arrive_unlocked hl]
  · rw [State.arrive_checkFail hl hr, ← min_excuseCap_succ]
    rfl

/-- Settles O8: the distance of a LATE frame is the difference mod 256, and `Alr.takeLate_eq` gives its timer. -/
theorem formatFailAndLateArrivalsAreDiscarded : Obligations.FormatFailAndLateArrivalsAreDiscarded := by
  unfold Obligations.FormatFailAndLateArrivalsAreDiscarded
  intro s frame q ts hp hl
  rw [exec_arrival_released hp]
  refine ⟨fun hr => ?_, fun xs e hr he hd => ?_⟩
  · rw [State.arrive_formatFail hl hr]
    rfl
  · rw [← Alr.distance_expected he] at hd
    rw [State.arrive_late hl hr hd, State.onAlr, Alr.takeLate_eq]
    rfl

/-- Settles O9: d is the model's distance, then gap accounting, and the room in the IFQ decides the class. -/
theorem inOrderArrivalIsAcceptedOrOverrun : Obligations.InOrderArrivalIsAcceptedOrOverrun := by
  unfold Obligations.InOrderArrivalIsAcceptedOrOverrun
  intro s frame q ts xs d hp hl hr hd
  have hdist : s.alr.distance q = d ∧ d ≤ 127 := by
    rcases hd with ⟨he, rfl⟩ | ⟨e, he, rfl, hle⟩
    · exact ⟨Alr.distance_unsynced he q, by omega⟩
    · exact ⟨Alr.distance_expected he q, hle⟩
  obtain ⟨rfl, hle⟩ := hdist
  rw [exec_arrival_released hp, State.arrive_inOrder hl hr hle]
  refine ⟨fun hroom => ?_, fun hfull => ?_⟩
  · rw [State.takeInOrder_accepted q ts xs hroom, State.accountGap_eq, State.onAlr, Alr.takeAccepted_eq]
  · rw [State.takeInOrder_overrun q ts xs hfull, State.accountGap_eq, State.onAlr, Alr.takeOverrun_eq]
    rfl

/-- Settles O4: an UNSYNCED tracker has distance 0, so the arrival is in order (O9) and nothing counts as missed. -/
theorem lockGainedResetsTheTracker : Obligations.LockGainedResetsTheTracker := by
  unfold Obligations.LockGainedResetsTheTracker
  refine ⟨fun s hp => exec_event_released hp rfl nofun nofun, ?_⟩
  intro t frame q ts xs hp hl he hr
  obtain ⟨haccepted, hoverrun⟩ :=
    inOrderArrivalIsAcceptedOrOverrun t frame q ts xs 0 hp hl hr (.inl ⟨he, rfl⟩)
  rcases Nat.lt_or_ge t.alr.ifq.length 8 with hroom | hfull
  · refine ⟨_, haccepted (by omega), rfl, rfl, rfl, .inl rfl, fun f hf => ?_⟩
    simpa using hf
  · exact ⟨_, hoverrun hfull, rfl, rfl, rfl, .inr rfl, fun f hf => .inl hf⟩

/-- Settles O10, by the state of the timer. -/
theorem timerExpiryDeclaresStale : Obligations.TimerExpiryDeclaresStale := by
  unfold Obligations.TimerExpiryDeclaresStale
  intro s hp
  have hexec : exec .staleTimerExpiry s = .next s.expire := exec_event_released hp rfl nofun nofun
  rw [hexec]
  refine ⟨fun n hn => ?_, fun hn => ?_⟩
  · simp [State.expire, hn, State.declareStale_eq]
  · simp [State.expire, hn]

/-- Settles O11: on an empty queue the step is `State.idle`, which without an own event is `State.period`. -/
theorem emptyQueueStep : Obligations.EmptyQueueStep := by
  unfold Obligations.EmptyQueueStep
  intro s hq
  have hidle : step s = s.idle := by simp [step, hq]
  have hperiod (hown : s.ownEvent = none) : step s = .next s.period := by simp [hidle, State.idle, hown]
  refine ⟨fun i hi => ?_, fun hown hp => ?_, fun hown hp ht => ?_, fun n hown hp ht => ?_, fun hown hp ht => ?_⟩
  · simp [hidle, State.idle, hi]
  · simp [hperiod hown, State.period, State.timeBaseRuns, hp]
  · simp [hperiod hown, State.period, ht]
  · simp [hperiod hown, State.period, State.timeBaseRuns, hp, ht, State.onAlr]
  · simp [hperiod hown, State.period, State.timeBaseRuns, hp, ht, State.declareStale_eq]

end Sys2Proof.Proofs
end

section
/-! SET_LINK and the power-on reset values. -/

namespace Sys2Proof.Machine

/-! ### The arguments and the payload of SET-LINK (R174, R178) -/

theorem ForwardMode.ofByte_none {b : Byte} (h : 1 < b.toNat) : ForwardMode.ofByte b = none := by
  unfold ForwardMode.ofByte
  split
  next h0 => omega
  next h1 => omega
  next => rfl

/-- A forward mode argument in range, with the code that answers it. -/
theorem ForwardMode.ofByte_some {b : Byte} (h : b.toNat ≤ 1) :
    ForwardMode.ofByte b = some (if b = 0 then .off else .on) ∧
      (if b = 0 then ForwardMode.off else ForwardMode.on).byte = b := by
  rcases Nat.le_one_iff_eq_zero_or_eq_one.mp h with h | h
  · obtain rfl : b = 0 := BitVec.eq_of_toNat_eq (by simpa using h)
    exact ⟨rfl, rfl⟩
  · obtain rfl : b = 1 := BitVec.eq_of_toNat_eq (by simpa using h)
    exact ⟨rfl, rfl⟩

theorem Timer.byte_eq (t : Timer) : t.byte = if t = .stopped then 0 else 1 := by
  cases t <;> simp [Timer.byte]

/-- SET-LINK at the ALR as an update of the timeout and of the timer (R18). -/
theorem Alr.setTimeout_eq (t : Half) (a : Alr) :
    a.setTimeout t = { a with
      timeout := t
      timer := if a.freshness = .fresh then (if t = 0 then .stopped else .running t.toNat) else a.timer } := by
  unfold Alr.setTimeout
  split
  next h => rw [if_pos h]
  next h => rw [if_neg (by simp [h])]
  next h => rw [if_neg (by simp [h])]

/-- SET-LINK with a mode out of range (R168, R174). -/
theorem setLink_bad (f : CommandFrame) (timeout : Half) {mode : Byte} (h : 1 < mode.toNat) (s : State) :
    setLink f timeout mode s = s.badArgument f := by
  simp [setLink, ForwardMode.ofByte_none h]

/-- SET-LINK with a mode in range: timeout and mode in one execution, and what it answers (R174, R181). -/
theorem setLink_done (f : CommandFrame) (timeout : Half) {mode : Byte} (h : mode.toNat ≤ 1) (s : State)
    (rest : List CommandFrame) :
    setLink f timeout mode (s.dequeued rest) =
      ({ s with
        alr := s.alr.setTimeout timeout
        ce := { s.ce with forwarding := if mode = 0 then .off else .on } } : State).answered rest
          ⟨f.tag, f.code, .done, halfBytes timeout ++
            [mode, (s.alr.setTimeout timeout).freshness.byte, (s.alr.setTimeout timeout).timer.byte]⟩ := by
  obtain ⟨hmode, hbyte⟩ := ForwardMode.ofByte_some h
  unfold setLink
  rw [hmode]
  dsimp only
  rw [hbyte]
  rfl

end Sys2Proof.Machine

namespace Sys2Proof.Proofs

open Sys2Proof.Machine

/-- Settles O45: at its turn the row is `setLink` on the state without its frame, by the mode argument's range. -/
theorem setLinkSetsTimeoutAndMode : Obligations.SetLinkSetsTimeoutAndMode := by
  unfold Obligations.SetLinkSetsTimeoutAndMode
  intro s tag timeout mode rest hx
  rw [exec_command_executes rfl rfl hx]
  refine ⟨fun hbad => ?_, fun hmode => ?_⟩
  · rw [commandAct, setLink_bad _ _ hbad, State.badArgument_dequeued]
  · rw [commandAct, setLink_done _ _ hmode, Timer.byte_eq, Alr.setTimeout_eq]
    rfl

/-- Settles O1: the tables have one value in every place, and the group records are given group by group. -/
theorem powerOnResetValues : Obligations.PowerOnResetValues := by
  unfold Obligations.PowerOnResetValues
  refine ⟨rfl, fun c => ⟨?_, ?_, ?_⟩, rfl, rfl, rfl, rfl, rfl, rfl, fun f => ?_, fun g => ?_, rfl, rfl, rfl, rfl,
    rfl, rfl, rfl, rfl⟩
  · exact Vector.getElem_replicate c.isLt
  · exact Vector.getElem_replicate c.isLt
  · exact Vector.getElem_replicate c.isLt
  · exact Vector.getElem_replicate f.isLt
  · have hgroup : State.reset.fru.groups[g] = GroupRecord.reset g := Vector.getElem_ofFn g.isLt
    rw [hgroup]
    refine ⟨rfl, ?_⟩
    revert g
    decide

end Sys2Proof.Proofs
end

section
/-! The ingress invariant: the ranges of the ALR and of its queued frames, kept by every update of the ALR and so by
every step (R1, R4, R10, R13, R15). -/

namespace Sys2Proof.Machine

/-! ### The invariant of the ALR, field by field -/

/-- The ingress invariant as facts about one ALR: excuse count and IFQ within their sizes, the timer STOPPED or RUNNING
as R15 has it, every queued frame with 1 to 16 entries. -/
structure Alr.IngressOk (a : Alr) : Prop where
  excuse : a.excuse ≤ 255
  room : a.ifq.length ≤ 8
  stopped : a.timer = .stopped → a.freshness ≠ .fresh ∨ a.timeout = 0
  running : ∀ n, a.timer = .running n → a.freshness = .fresh ∧ 1 ≤ n ∧ n ≤ a.timeout.toNat
  frames : ∀ f ∈ a.ifq, 1 ≤ f.samples.length ∧ f.samples.length ≤ 16

/-- The two invariants of the statement say that the ALR is within its ranges. -/
theorem State.ingressOk_iff (s : State) : s.AlrOk ∧ s.FramesOk ↔ s.alr.IngressOk := by
  unfold State.AlrOk Alr.Ok
  constructor
  · rintro ⟨⟨hexcuse, hroom, htimer⟩, hframes⟩
    refine ⟨hexcuse, hroom, fun ht => ?_, fun n ht => ?_, hframes⟩ <;> rw [ht] at htimer <;> exact htimer
  · rintro ⟨hexcuse, hroom, hstopped, hrunning, hframes⟩
    refine ⟨⟨hexcuse, hroom, ?_⟩, hframes⟩
    cases ht : s.alr.timer with
    | stopped => exact hstopped ht
    | running n => exact hrunning n ht

theorem Alr.ingressOk_reset : Alr.reset.IngressOk :=
  ⟨by decide, by decide, fun _ => .inl (by decide), nofun, nofun⟩

/-! ### What keeps it: one rule per update of the ALR -/

section
variable {a : Alr} (h : a.IngressOk)
include h

/-- Lock, tracker and counters are free; the excuse count stays within 255. -/
theorem Alr.IngressOk.tracked (lock : Lock) (expected : Option Byte) {excuse : Nat} (he : excuse ≤ 255)
    (counters : IngressCounters) :
    Alr.IngressOk { a with lock := lock, expected := expected, excuse := excuse, counters := counters } :=
  ⟨he, h.room, h.stopped, h.running, h.frames⟩

/-- A STALE link with its timer STOPPED (R16). -/
theorem Alr.IngressOk.declared : a.declareStale.IngressOk :=
  ⟨h.excuse, h.room, fun _ => .inl nofun, nofun, h.frames⟩

/-- A restart of a running timer, which has a timeout other than 0 (R9, R12, R15). -/
theorem Alr.IngressOk.restarted : a.restartTimer.IngressOk := by
  rw [Alr.restartTimer_eq]
  cases ht : a.timer with
  | stopped => exact ⟨h.excuse, h.room, fun _ => h.stopped ht, nofun, h.frames⟩
  | running n =>
    obtain ⟨hfresh, hpos, hmax⟩ := h.running n ht
    refine ⟨h.excuse, h.room, nofun, fun m hm => ?_, h.frames⟩
    obtain rfl : a.timeout.toNat = m := Timer.running.inj hm
    exact ⟨hfresh, by omega, le_rfl⟩

/-- A timeout set while FRESH starts the timer, or stops it by 0; otherwise the timer stays as it is, and it is
STOPPED (R15, R18). -/
theorem Alr.IngressOk.timeoutSet (t : Half) : (a.setTimeout t).IngressOk := by
  rw [Alr.setTimeout_eq]
  by_cases hf : a.freshness = .fresh
  · simp only [hf, if_true]
    by_cases ht : t = 0
    · simp only [ht, if_true]
      exact ⟨h.excuse, h.room, fun _ => .inr rfl, nofun, h.frames⟩
    · simp only [ht, if_false]
      refine ⟨h.excuse, h.room, nofun, fun m hm => ?_, h.frames⟩
      obtain rfl : t.toNat = m := Timer.running.inj hm
      exact ⟨rfl, Nat.pos_of_ne_zero fun h0 => ht (BitVec.eq_of_toNat_eq h0), le_rfl⟩
  · simp only [hf, if_false]
    exact ⟨h.excuse, h.room, fun _ => .inl hf, fun n hn => absurd (h.running n hn).1 hf, h.frames⟩

/-- One period less of a running timer that has 2 or more left (R15). -/
theorem Alr.IngressOk.counted {n : Nat} (ht : a.timer = .running n) (hn : 2 ≤ n) :
    Alr.IngressOk { a with timer := .running (n - 1) } := by
  obtain ⟨hfresh, hpos, hmax⟩ := h.running n ht
  refine ⟨h.excuse, h.room, nofun, fun m hm => ?_, h.frames⟩
  obtain rfl : n - 1 = m := Timer.running.inj hm
  exact ⟨hfresh, by omega, Nat.le_trans (Nat.sub_le n 1) hmax⟩

/-- A frame taken from the head of the IFQ (R39). -/
theorem Alr.IngressOk.taken {f : Frame} {rest : List Frame} (hq : a.ifq = f :: rest) :
    Alr.IngressOk { a with ifq := rest } := by
  have hroom := h.room
  have hframes := h.frames
  rw [hq] at hroom hframes
  exact ⟨h.excuse, Nat.le_of_succ_le hroom, h.stopped, h.running, fun g hg => hframes g (.tail f hg)⟩

/-- A readable frame appended where there is room, FRESH, the timer started with a timeout other than 0 (R13, R15). -/
theorem Alr.IngressOk.accepted {f : Frame} (hroom : a.ifq.length ≤ 7)
    (hf : 1 ≤ f.samples.length ∧ f.samples.length ≤ 16) : (a.takeAccepted f).IngressOk := by
  have hlength : (a.ifq ++ [f]).length ≤ 8 := by simp; omega
  have hframes : ∀ g ∈ a.ifq ++ [f], 1 ≤ g.samples.length ∧ g.samples.length ≤ 16 := by
    intro g hg
    rcases List.mem_append.mp hg with hg | hg
    · exact h.frames g hg
    · rwa [List.mem_singleton.mp hg]
  rw [Alr.takeAccepted_eq]
  by_cases ht : a.timeout = 0
  · simp only [ht, if_true]
    refine ⟨Nat.zero_le _, hlength, fun _ => .inr rfl, fun n hn => ?_, hframes⟩
    obtain ⟨-, hpos, hmax⟩ := h.running n hn
    rw [ht] at hmax
    exact absurd (Nat.le_trans hpos hmax) (by decide)
  · simp only [ht, if_false]
    refine ⟨Nat.zero_le _, hlength, nofun, fun m hm => ?_, hframes⟩
    obtain rfl : a.timeout.toNat = m := Timer.running.inj hm
    exact ⟨rfl, Nat.pos_of_ne_zero fun h0 => ht (BitVec.eq_of_toNat_eq h0), le_rfl⟩

/-- An OVERRUN: the timer restarted if it runs, the tracker advanced (R7, R12). -/
theorem Alr.IngressOk.overrun (q : Byte) : (a.takeOverrun q).IngressOk :=
  (h.tracked a.lock a.expected h.excuse _).restarted.tracked _ _ (Nat.zero_le _) _

end

/-! ### The events that change the ALR -/

/-- An arrival of any class keeps the ALR within its ranges (R4 to R13). -/
theorem State.arrive_ingressOk {s : State} (h : s.alr.IngressOk) (frame : List Byte) :
    (s.arrive frame).alr.IngressOk := by
  cases hl : s.alr.lock with
  | unlocked => rwa [State.arrive_unlocked hl]
  | locked =>
    cases hr : readArrival frame with
    | checkFail =>
      rw [State.arrive_checkFail hl hr]
      exact h.tracked _ _ (Nat.min_le_left _ _) _
    | formatFail q ts =>
      rw [State.arrive_formatFail hl hr]
      exact h.tracked _ _ h.excuse _
    | good q ts xs =>
      rcases Nat.lt_or_ge 127 (s.alr.distance q) with hd | hd
      · rw [State.arrive_late hl hr hd]
        exact (h.tracked _ _ h.excuse _).restarted
      rw [State.arrive_inOrder hl hr hd]
      have hgap : (s.accountGap q ts).alr.IngressOk := by
        rw [State.accountGap_eq]
        exact h.tracked _ _ h.excuse _
      have hifq : (s.accountGap q ts).alr.ifq = s.alr.ifq := by rw [State.accountGap_eq]
      rcases Nat.lt_or_ge 7 s.alr.ifq.length with hfull | hroom
      · rw [State.takeInOrder_overrun q ts xs hfull]
        exact hgap.overrun q
      · rw [State.takeInOrder_accepted q ts xs hroom]
        exact hgap.accepted (hifq ▸ hroom) (readArrival_good_length hr)

/-- LOCK-LOST keeps the ALR within its ranges (R3). -/
theorem State.loseLock_ingressOk {s : State} (h : s.alr.IngressOk) : s.loseLock.alr.IngressOk := by
  have hunlocked := h.tracked .unlocked s.alr.expected h.excuse s.alr.counters
  unfold State.loseLock
  split
  · exact h
  · dsimp only
    split
    · exact hunlocked
    · exact hunlocked.declared
    · exact hunlocked.declared

/-- A boundary takes at most the head of the IFQ from the ALR (R39, R41). -/
theorem State.boundary_alr (s : State) :
    s.boundary.alr = s.alr ∨ ∃ f rest, s.alr.ifq = f :: rest ∧ s.boundary.alr = { s.alr with ifq := rest } := by
  rcases s.boundary_cases with e | ⟨f, rest, hq, -, e⟩
  · exact .inl (by rw [e])
  · refine .inr ⟨f, rest, hq, ?_⟩
    obtain ⟨_, _, _, hstages, -⟩ := State.stages_eq f ({ s with alr := { s.alr with ifq := rest } } : State)
    obtain ⟨_, _, happlied, -⟩ :=
      State.applyPending_frame .frame (some f.sequence) ({ s with alr := { s.alr with ifq := rest } } : State)
    rw [e, hstages, happlied]

/-- A frame boundary keeps the ALR within its ranges. -/
theorem State.boundary_ingressOk {s : State} (h : s.alr.IngressOk) : s.boundary.alr.IngressOk := by
  rcases s.boundary_alr with e | ⟨f, rest, hq, e⟩ <;> rw [e]
  · exact h
  · exact h.taken hq

/-- The expiry of the timer keeps the ALR within its ranges (R15, R16). -/
theorem State.expire_ingressOk {s : State} (h : s.alr.IngressOk) : s.expire.alr.IngressOk := by
  unfold State.expire
  split
  · exact h
  · exact h.declared

/-! ### The events that leave the ALR as it is -/

theorem State.takeDeclaration_alr (s : State) : s.takeDeclaration.alr = s.alr := by
  obtain ⟨_, _, _, e, -⟩ := takeDeclaration_frame s
  rw [e]

theorem State.takeRaise_alr (source : RaiseSource) (s : State) : (s.takeRaise source).alr = s.alr := by
  obtain ⟨_, _, e⟩ := takeRaise_frame s source
  rw [e]

theorem State.attempt_alr (s : State) : s.attempt.alr = s.alr := by
  obtain ⟨_, e⟩ := attempt_frame s
  rw [e]

theorem State.receive_alr (frame : List Byte) (s : State) : (s.receive frame).alr = s.alr := by
  obtain ⟨_, _, e, -⟩ := receive_frame s frame
  rw [e]

theorem State.start_alr (s : State) : s.start.alr = s.alr := by
  obtain ⟨_, _, e, -⟩ := start_frame s
  rw [e]

/-- Every event keeps the ALR within its ranges. -/
theorem eventEffect_ingressOk (i : Instr) {s : State} (h : s.alr.IngressOk) : (eventEffect i s).alr.IngressOk := by
  have unchanged {t : State} (e : t.alr = s.alr) : t.alr.IngressOk := e ▸ h
  cases i with
  | lockGained => exact h.tracked _ _ (Nat.zero_le _) _
  | lockLost => exact State.loseLock_ingressOk h
  | arrival frame => exact State.arrive_ingressOk h frame
  | staleTimerExpiry => exact State.expire_ingressOk h
  | frameBoundary => exact State.boundary_ingressOk h
  | declarationHandedToCe => exact unchanged s.takeDeclaration_alr
  | factorRaise source => exact unchanged (s.takeRaise_alr source)
  | selectionAttempt => exact unchanged s.attempt_alr
  | commandFrame frame | creditFrame frame => exact unchanged (s.receive_alr frame)
  | transmissionStart => exact unchanged s.start_alr
  | _ => exact h

/-! ### The commands: READ-STATUS, SET-LINK and RESYNC alone change the ALR -/

@[simp] theorem State.badArgument_alr (f : CommandFrame) (s : State) : (s.badArgument f).alr = s.alr := rfl
@[simp] theorem State.commitPending_alr (f : CommandFrame) (p : PendingCommit) (s : State) :
    (s.commitPending f p).alr = s.alr := rfl

@[simp] theorem readEntry_alr (f : CommandFrame) (channel bank : Byte) (s : State) :
    (readEntry f channel bank s).alr = s.alr := by
  unfold readEntry
  split <;> rfl

@[simp] theorem writeEntry_alr (f : CommandFrame) (channel : Byte) (args : EntryArgs) (s : State) :
    (writeEntry f channel args s).alr = s.alr := by
  unfold writeEntry
  split
  · rfl
  split
  · rfl
  split <;> rfl

@[simp] theorem loadShadow_alr (f : CommandFrame) (s : State) : (loadShadow f s).alr = s.alr := by
  unfold loadShadow
  split <;> rfl

@[simp] theorem commitBanks_alr (f : CommandFrame) (s : State) : (commitBanks f s).alr = s.alr := by
  unfold commitBanks
  split
  · rfl
  split <;> rfl

@[simp] theorem setGroup_alr (f : CommandFrame) (group level enables : Byte) (s : State) :
    (setGroup f group level enables s).alr = s.alr := by
  unfold setGroup
  split <;> rfl

@[simp] theorem readGroup_alr (f : CommandFrame) (group : Byte) (s : State) :
    (readGroup f group s).alr = s.alr := by
  unfold readGroup
  split <;> rfl

@[simp] theorem clearFactors_alr (f : CommandFrame) (group mask : Byte) (s : State) :
    (clearFactors f group mask s).alr = s.alr := by
  unfold clearFactors
  split <;> rfl

@[simp] theorem returnChecked_alr (f : CommandFrame) (depth : Nat) (c : Option FactorNo) (s : State) :
    (returnChecked f depth c s).alr = s.alr := by
  unfold returnChecked
  split
  · rfl
  split
  · rfl
  split <;> rfl

@[simp] theorem returnLevel_alr (f : CommandFrame) (depth presence factor : Byte) (s : State) :
    (returnLevel f depth presence factor s).alr = s.alr := by
  unfold returnLevel
  split
  · rfl
  split
  · split
    · rfl
    · exact returnChecked_alr ..
  · exact returnChecked_alr ..

@[simp] theorem reportGate_alr (f : CommandFrame) (gate : Byte) (s : State) :
    (reportGate f gate s).alr = s.alr := by
  unfold reportGate
  split <;> rfl

@[simp] theorem substituteChecked_alr (f : CommandFrame) (c : Channel) (form : Form) (value : Half) (s : State) :
    (substituteChecked f c form value s).alr = s.alr := by
  unfold substituteChecked
  dsimp only
  split
  · split <;> rfl
  all_goals
    split
    · rfl
    split
    · rfl
    split <;> rfl

@[simp] theorem substitute_alr (f : CommandFrame) (channel form : Byte) (value : Half) (s : State) :
    (substitute f channel form value s).alr = s.alr := by
  unfold substitute
  split
  · exact substituteChecked_alr ..
  · rfl

@[simp] theorem readSubstitutions_alr (f : CommandFrame) (s : State) : (readSubstitutions f s).alr = s.alr := rfl

@[simp] theorem capture_alr (f : CommandFrame) (channels : Word) (limit : Byte) (s : State) :
    (capture f channels limit s).alr = s.alr := by
  unfold capture
  split
  · rfl
  split
  · rfl
  split
  · rfl
  split <;> rfl

@[simp] theorem cancelCapture_alr (f : CommandFrame) (captureTag : Byte) (s : State) :
    (cancelCapture f captureTag s).alr = s.alr := by
  unfold cancelCapture
  split <;> rfl

@[simp] theorem unknownCommand_alr (f : CommandFrame) (s : State) : (unknownCommand f s).alr = s.alr := rfl

/-- READ-STATUS with its clear flag sets the counters to 0 (R173). -/
theorem readStatus_alr (f : CommandFrame) (clearFlag : Byte) (s : State) :
    (readStatus f clearFlag s).alr = s.alr ∨
      (readStatus f clearFlag s).alr = { s.alr with counters := ⟨0, 0, 0, 0, 0, 0, 0⟩ } := by
  unfold readStatus
  split
  · exact .inl rfl
  · exact .inr rfl
  · exact .inl rfl

/-- SET-LINK sets the timeout or is refused (R174). -/
theorem setLink_alr (f : CommandFrame) (timeout : Half) (mode : Byte) (s : State) :
    (setLink f timeout mode s).alr = s.alr ∨ (setLink f timeout mode s).alr = s.alr.setTimeout timeout := by
  unfold setLink
  split
  · exact .inl rfl
  · exact .inr rfl

/-- What a command's act makes of the ALR (R11, R18, R173). -/
theorem commandAct_alr (f : CommandFrame) (i : Instr) (s : State) :
    (commandAct f i s).alr = s.alr ∨ (commandAct f i s).alr = { s.alr with counters := ⟨0, 0, 0, 0, 0, 0, 0⟩ } ∨
      (∃ t, (commandAct f i s).alr = s.alr.setTimeout t) ∨
      (commandAct f i s).alr = { s.alr with expected := none, excuse := 0 } := by
  cases i with
  | readStatus tag clearFlag => exact (readStatus_alr f clearFlag s).imp_right .inl
  | setLink tag timeout mode => exact (setLink_alr f timeout mode s).imp_right fun e => .inr (.inl ⟨timeout, e⟩)
  | resync tag => exact .inr (.inr (.inr rfl))
  | _ =>
    left
    simp only [commandAct, readEntry_alr, writeEntry_alr, loadShadow_alr, commitBanks_alr, setGroup_alr, readGroup_alr,
      clearFactors_alr, returnLevel_alr, reportGate_alr, substitute_alr, readSubstitutions_alr, capture_alr,
      cancelCapture_alr, unknownCommand_alr, id]

/-- Every command's act keeps the ALR within its ranges. -/
theorem commandAct_ingressOk (f : CommandFrame) (i : Instr) {s : State} (h : s.alr.IngressOk) :
    (commandAct f i s).alr.IngressOk := by
  rcases commandAct_alr f i s with e | e | ⟨t, e⟩ | e <;> rw [e]
  · exact h
  · exact h.tracked _ _ h.excuse _
  · exact h.timeoutSet t
  · exact h.tracked _ _ (Nat.zero_le _) _

/-- A period of the time base keeps the ALR within its ranges (R15). -/
theorem State.period_ingressOk {s : State} (h : s.alr.IngressOk) : s.period.alr.IngressOk := by
  rcases s.period_cases with e | ⟨n, ht, hn, e⟩ | ⟨n, ht, hn, e⟩ <;> rw [e]
  · exact h
  · exact h.declared
  · exact h.counted ht hn

end Sys2Proof.Machine

namespace Sys2Proof.Proofs

open Sys2Proof.Machine

/-- Settles O52: the invariant is one of the ALR alone, kept by every event, every command's act and a period. -/
theorem everyStepKeepsTheIngressOk : Obligations.EveryStepKeepsTheIngressOk := by
  unfold Obligations.EveryStepKeepsTheIngressOk
  intro s t hs hstep
  rw [State.ingressOk_iff] at hs ⊢
  exact step_keeps (Inv := fun s => s.alr.IngressOk) (fun _ _ h => h)
    (fun _ _ _ h => exec_keeps (Inv := fun s => s.alr.IngressOk) (fun _ _ => Alr.ingressOk_reset) (fun _ h => h)
      (fun i _ _ _ h => eventEffect_ingressOk i h) (fun i f _ _ _ _ _ h => commandAct_ingressOk f i h) h)
    (fun _ h => State.period_ingressOk h) hs hstep

end Sys2Proof.Proofs
end

section
/-! The nine entry checks of WRITE-ENTRY: the number reported is the first that fails, and an entry that fails none is
valid and stored field by field (R29, R30, R178, R180). -/

namespace Sys2Proof.Machine

/-! ### The check reported -/

/-- Check k of R29 fails on the carried entry, with the mode codes of R178 and the presence bits of R180. -/
def EntryArgs.Fails (a : EntryArgs) (k : Nat) : Prop :=
  (k = 1 ∧ 5 < a.mode.toNat) ∨ (k = 2 ∧ 4095 < a.hysteresis.toNat) ∨
  (k = 3 ∧ (a.stepLimit.toNat = 0 ∨ 32767 < a.stepLimit.toNat)) ∨
  (k = 4 ∧ (a.onsetCount.toNat = 0 ∨ 64 < a.onsetCount.toNat)) ∨
  (k = 5 ∧ (a.releaseCount.toNat = 0 ∨ 64 < a.releaseCount.toNat)) ∨
  (k = 6 ∧ a.presence.getLsbD 0 = true ∧ 27 < a.onsetFactor.toNat) ∨
  (k = 7 ∧ a.presence.getLsbD 1 = true ∧ 27 < a.releaseFactor.toNat) ∨
  (k = 8 ∧ (a.mode = 3 ∨ a.mode = 4) ∧ a.high.toInt < a.low.toInt) ∨
  (k = 9 ∧ a.mode = 3 ∧ a.high.toInt - a.low.toInt < 2 * (a.hysteresis.toNat : Int))

/-- The numbers of the checks end at 9. -/
theorem EntryArgs.Fails.lt_ten {a : EntryArgs} {k : Nat} (h : EntryArgs.Fails a k) : k < 10 := by
  unfold EntryArgs.Fails at h
  omega

/-- The part goes through the numbers and stops at the first check that fails (R29). -/
theorem EntryArgs.failedCheck_eq_find? (a : EntryArgs) [DecidablePred (EntryArgs.Fails a)] :
    EntryArgs.failedCheck a = (List.range 10).find? fun k => decide (EntryArgs.Fails a k) := by
  have hnumbers : List.range 10 = [0, 1, 2, 3, 4, 5, 6, 7, 8, 9] := rfl
  have hfind (k : Nat) (l : List Nat) :
      (k :: l).find? (fun k => decide (EntryArgs.Fails a k)) =
        if EntryArgs.Fails a k then some k else l.find? fun k => decide (EntryArgs.Fails a k) := by
    by_cases h : EntryArgs.Fails a k <;> simp [h]
  rw [EntryArgs.failedCheck_eq, hnumbers]
  simp only [hfind]
  simp [EntryArgs.Fails]

/-- The check reported is the lowest-numbered that fails (R29). -/
theorem EntryArgs.failedCheck_eq_some_iff (a : EntryArgs) (k : Nat) :
    EntryArgs.failedCheck a = some k ↔ EntryArgs.Fails a k ∧ ∀ j < k, ¬EntryArgs.Fails a j := by
  classical
  rw [EntryArgs.failedCheck_eq_find?, List.find?_range_eq_some]
  simp only [decide_eq_true_eq, Bool.not_eq_true', decide_eq_false_iff_not, List.mem_range]
  exact ⟨fun ⟨hk, _, hj⟩ => ⟨hk, hj⟩, fun ⟨hk, hj⟩ => ⟨hk, hk.lt_ten, hj⟩⟩

/-- None is reported exactly when none fails (R29). -/
theorem EntryArgs.failedCheck_eq_none_iff (a : EntryArgs) :
    EntryArgs.failedCheck a = none ↔ ∀ k, ¬EntryArgs.Fails a k := by
  classical
  rw [EntryArgs.failedCheck_eq_find?, List.find?_range_eq_none]
  simp only [Bool.not_eq_true', decide_eq_false_iff_not]
  exact ⟨fun h k hk => h k hk.lt_ten hk, fun h k _ => h k⟩

/-! ### An entry that fails none -/

/-- What the nine checks leave of an entry that passes them. -/
structure EntryArgs.Passes (a : EntryArgs) : Prop where
  mode : a.mode.toNat ≤ 5
  hysteresis : a.hysteresis.toNat ≤ 4095
  stepLimit : 1 ≤ a.stepLimit.toNat ∧ a.stepLimit.toNat ≤ 32767
  onsetCount : 1 ≤ a.onsetCount.toNat ∧ a.onsetCount.toNat ≤ 64
  releaseCount : 1 ≤ a.releaseCount.toNat ∧ a.releaseCount.toNat ≤ 64
  onsetFactor : a.presence.getLsbD 0 = true → a.onsetFactor.toNat ≤ 27
  releaseFactor : a.presence.getLsbD 1 = true → a.releaseFactor.toNat ≤ 27
  window : a.mode = 3 ∨ a.mode = 4 → a.low.toInt ≤ a.high.toInt
  margin : a.mode = 3 → 2 * (a.hysteresis.toNat : Int) ≤ a.high.toInt - a.low.toInt

theorem EntryArgs.passes_of_failedCheck {a : EntryArgs} (h : EntryArgs.failedCheck a = none) :
    EntryArgs.Passes a := by
  rw [EntryArgs.failedCheck_eq_none_iff] at h
  unfold EntryArgs.Fails at h
  exact {
    mode := by have := h 1; omega
    hysteresis := by have := h 2; omega
    stepLimit := by have := h 3; omega
    onsetCount := by have := h 4; omega
    releaseCount := by have := h 5; omega
    onsetFactor := by simpa using h 6
    releaseFactor := by simpa using h 7
    window := by simpa using h 8
    margin := by simpa using h 9 }

/-- The stored mode is the one whose code the entry carries (R178). -/
theorem EntryArgs.Passes.mode_byte {a : EntryArgs} (h : EntryArgs.Passes a) :
    (EntryArgs.entry a).mode.byte = a.mode := by
  cases hm : Mode.ofByte a.mode with
  | none => exact absurd (Mode.ofByte_none.mp hm) (Nat.not_lt.mpr h.mode)
  | some m => simpa [EntryArgs.entry, hm] using Mode.ofByte_byte hm

/-- A passing entry is stored with its fields in their ranges and its window wide enough (R29, R30). -/
theorem EntryArgs.Passes.valid {a : EntryArgs} (h : EntryArgs.Passes a) : (EntryArgs.entry a).Valid := by
  have hcode {m : Mode} (hm : (EntryArgs.entry a).mode = m) : a.mode = m.byte := by rw [← hm, h.mode_byte]
  exact ⟨h.hysteresis, h.stepLimit.1, h.stepLimit.2, h.onsetCount.1, h.onsetCount.2, h.releaseCount.1,
    h.releaseCount.2, fun hm => h.window (hm.imp hcode hcode), fun hm => h.margin (hcode hm)⟩

/-- A factor in range is stored when its presence bit is 1, whatever the byte of an absent one holds (R180). -/
theorem conditionFactorOf_present {p : Bool} {b : Byte} (h : p = true → b.toNat ≤ 27) :
    ((if p then some b else none).bind conditionFactorOf).map (·.val) = if p then some b.toNat else none := by
  cases p with
  | false => rfl
  | true =>
    have hb : b.toNat < 28 := Nat.lt_succ_of_le (h rfl)
    simp [conditionFactorOf, hb]

end Sys2Proof.Machine

namespace Sys2Proof.Proofs

open Sys2Proof.Machine

/-- Settles O32: the checks are gone through in the order of their numbers, and `EntryArgs.Passes` is what they leave. -/
theorem entryChecks : Obligations.EntryChecks := by
  unfold Obligations.EntryChecks
  intro a fails
  refine ⟨EntryArgs.failedCheck_eq_some_iff a, EntryArgs.failedCheck_eq_none_iff a, fun hnone => ?_⟩
  have hpasses := EntryArgs.passes_of_failedCheck hnone
  exact ⟨hpasses.valid, hpasses.mode_byte, rfl, rfl, rfl, rfl, rfl, rfl,
    conditionFactorOf_present hpasses.onsetFactor, conditionFactorOf_present hpasses.releaseFactor⟩

end Sys2Proof.Proofs
end

section
/-! READ_ENTRY, WRITE_ENTRY and LOAD_SHADOW at their turn (R28, R30, R31, R33). -/

namespace Sys2Proof.Machine

/-! ### READ-ENTRY (R33, R181) -/

theorem readEntry_bad (f : CommandFrame) {channel bank : Byte} (h : 31 < channel.toNat ∨ 1 < bank.toNat) (s : State) :
    readEntry f channel bank s = s.badArgument f := by
  unfold readEntry
  rcases h with h | h
  · rw [channelOf_none h]
  · rw [s.ce.bank_none h]
    cases channelOf channel <;> rfl

/-- READ-ENTRY in range answers with the entry of the bank named and the live state. -/
theorem readEntry_done (f : CommandFrame) {channel bank : Byte} {c : Channel} (hc : channel.toNat = c.val)
    (hb : bank.toNat ≤ 1) (s : State) :
    readEntry f channel bank s = s.respond f .done ([channel, bank] ++
      (if bank = 0 then s.ce.active[c] else s.ce.shadow[c]).bytes ++ (s.ce.live[c]).bytes) := by
  unfold readEntry
  rw [channelOf_some hc, s.ce.bank_some hb]
  dsimp only
  split <;> rfl

/-- The entry bytes with the code of the mode, the two presence bits and the factor numbers (R178, R181). -/
theorem Entry.bytes_eq (e : Entry) :
    e.bytes = e.mode.byte :: halfBytes e.high ++ halfBytes e.low ++ halfBytes e.hysteresis ++ halfBytes e.stepLimit ++
      [e.onsetCount, e.releaseCount,
        (if e.onsetFactor.isSome then 1 else 0) + (if e.releaseFactor.isSome then 2 else 0),
        BitVec.ofNat 8 ((e.onsetFactor.map (·.val)).getD 0), BitVec.ofNat 8 ((e.releaseFactor.map (·.val)).getD 0)] := by
  rw [Entry.bytes, flagBytes_two, factorByte_eq, factorByte_eq]
  rfl

/-- The live fields, each optional one behind its presence byte (R178, R181). -/
theorem Live.bytes_eq (l : Live) :
    l.bytes = [l.state.byte, BitVec.ofNat 8 l.run] ++
      (match l.previous with | none => [0, 0, 0] | some v => 1 :: halfBytes v) ++
      (match l.lastSeen with | none => [0, 0] | some q => [1, q]) := by
  cases hp : l.previous <;> cases hs : l.lastSeen <;> simp [Live.bytes, hp, hs, optionalHalf, optionalByte, byteOf]

/-! ### WRITE-ENTRY (R28, R30) -/

theorem writeEntry_bad (f : CommandFrame) {channel : Byte} (h : 31 < channel.toNat) (args : EntryArgs) (s : State) :
    writeEntry f channel args s = s.badArgument f := by
  simp [writeEntry, channelOf_none h]

section
variable (f : CommandFrame) {channel : Byte} {c : Channel} (hc : channel.toNat = c.val) {args : EntryArgs} {s : State}
include hc

theorem writeEntry_pending {p : PendingCommit} (hp : s.ce.commit = some p) :
    writeEntry f channel args s = s.commitPending f p := by
  simp [writeEntry, channelOf_some hc, hp]

theorem writeEntry_failed {k : Nat} (hp : s.ce.commit = none) (hk : EntryArgs.failedCheck args = some k) :
    writeEntry f channel args s = s.respond f .badEntry [channel, byteOf k] := by
  simp [writeEntry, channelOf_some hc, hp, hk]

theorem writeEntry_done (hp : s.ce.commit = none) (hk : EntryArgs.failedCheck args = none) :
    writeEntry f channel args s =
      (s.onCe fun ce => { ce with shadow := ce.shadow.set c (EntryArgs.entry args) }).respond f .done [channel] := by
  simp [writeEntry, channelOf_some hc, hp, hk]

end

/-! ### LOAD-SHADOW (R31) -/

theorem loadShadow_pending (f : CommandFrame) {s : State} {p : PendingCommit} (hp : s.ce.commit = some p) :
    loadShadow f s = s.commitPending f p := by
  simp [loadShadow, hp]

theorem loadShadow_done (f : CommandFrame) {s : State} (hp : s.ce.commit = none) :
    loadShadow f s =
      (s.onCe fun ce => { ce with shadow := ce.active }).respond f .done [byteOf s.ce.differing] := by
  simp [loadShadow, hp]

end Sys2Proof.Machine

namespace Sys2Proof.Proofs

open Sys2Proof.Machine

/-- Settles O30: by the range of the two arguments, and the layouts of an entry and of a live state record. -/
theorem readEntryReportsEntryAndLiveState : Obligations.ReadEntryReportsEntryAndLiveState := by
  unfold Obligations.ReadEntryReportsEntryAndLiveState
  intro s tag channel bank rest hx
  rw [exec_command_executes rfl rfl hx]
  refine ⟨fun hbad => ?_, fun c hc hb => ?_⟩
  · rw [commandAct, readEntry_bad _ hbad, State.badArgument_dequeued]
  · rw [commandAct, readEntry_done _ hc hb, State.respond_dequeued, Entry.bytes_eq, Live.bytes_eq]
    simp only [List.append_assoc, List.cons_append, List.nil_append]
    rfl

/-- Settles O31: the checks of `writeEntry` in their order. -/
theorem writeEntryChecksThenWritesShadow : Obligations.WriteEntryChecksThenWritesShadow := by
  unfold Obligations.WriteEntryChecksThenWritesShadow
  intro s tag channel args rest arguments hx
  rw [exec_command_executes (i := .writeEntry tag channel args) rfl rfl hx]
  refine ⟨fun hbad => ?_, fun c hc => ⟨fun p hp => ?_, fun k hp hk => ?_, fun hp hk => ?_⟩⟩
  · rw [commandAct, writeEntry_bad _ hbad, State.badArgument_dequeued]
    rfl
  · rw [commandAct, writeEntry_pending (s := s.dequeued rest) _ hc hp, State.commitPending_dequeued]
  · rw [commandAct, writeEntry_failed (s := s.dequeued rest) _ hc hp hk, State.respond_dequeued]
    rfl
  · rw [commandAct, writeEntry_done (s := s.dequeued rest) _ hc hp hk]
    rfl

/-- Settles O33: by the commit record; the count is the model's count of differing channels. -/
theorem loadShadowCopiesActive : Obligations.LoadShadowCopiesActive := by
  unfold Obligations.LoadShadowCopiesActive
  intro s tag rest hx
  rw [exec_command_executes rfl rfl hx]
  refine ⟨fun p hp => ?_, fun hp => ?_⟩
  · rw [commandAct, loadShadow_pending (s := s.dequeued rest) _ hp, State.commitPending_dequeued]
  · rw [commandAct, loadShadow_done (s := s.dequeued rest) _ hp, ← Ce.differing_eq]
    rfl

end Sys2Proof.Proofs
end

section
/-! The table invariant: both banks valid and every run count within the counts of the channel's ACTIVE entry, kept by
every update of the banks and the live state and so by every step (R29, R36). -/

namespace Sys2Proof.Machine

/-! ### The table of the CE and its invariant -/

/-- The banks and the live state: what the table invariant speaks of. -/
structure Table where
  active : Bank
  shadow : Bank
  live : Vector Live 32

def Ce.table (ce : Ce) : Table := ⟨ce.active, ce.shadow, ce.live⟩

/-- Both entries of every channel valid (R29), its run count within the counts of its ACTIVE entry (R36). -/
structure Table.Ok (t : Table) : Prop where
  active : ∀ c : Channel, (t.active[c]).Valid
  shadow : ∀ c : Channel, (t.shadow[c]).Valid
  live : ∀ c : Channel, (t.live[c]).Within t.active[c]

theorem State.tableOk_iff (s : State) : s.TableOk ↔ s.ce.table.Ok :=
  ⟨fun h => ⟨fun c => (h c).1, fun c => (h c).2.1, fun c => (h c).2.2⟩,
    fun h c => ⟨h.active c, h.shadow c, h.live c⟩⟩

theorem Entry.valid_reset : Entry.reset.Valid := by
  unfold Entry.Valid
  decide

/-- Every channel has the reset entry in both banks and the reset live state (R21, R35). -/
theorem Table.ok_reset : Ce.reset.table.Ok := by
  have hactive (c : Channel) : Ce.reset.table.active[c] = Entry.reset := Vector.getElem_replicate c.isLt
  have hshadow (c : Channel) : Ce.reset.table.shadow[c] = Entry.reset := Vector.getElem_replicate c.isLt
  have hlive (c : Channel) : Ce.reset.table.live[c] = Live.reset := Vector.getElem_replicate c.isLt
  refine ⟨fun c => ?_, fun c => ?_, fun c => ?_⟩
  · exact hactive c ▸ Entry.valid_reset
  · exact hshadow c ▸ Entry.valid_reset
  · rw [hlive]
    rfl

/-! ### The transition of a channel (R50 to R53) -/

section
variable {e : Entry} {run : Nat} {previous : Option Half} {lastSeen : Option Byte}

@[simp] theorem Live.within_clear : Live.Within e ⟨.clear, run, previous, lastSeen⟩ ↔ run = 0 := Iff.rfl
@[simp] theorem Live.within_active : Live.Within e ⟨.active, run, previous, lastSeen⟩ ↔ run = 0 := Iff.rfl
@[simp] theorem Live.within_onset :
    Live.Within e ⟨.onset, run, previous, lastSeen⟩ ↔ 1 ≤ run ∧ run + 1 ≤ e.onsetCount.toNat := Iff.rfl
@[simp] theorem Live.within_release :
    Live.Within e ⟨.release, run, previous, lastSeen⟩ ↔ 1 ≤ run ∧ run + 1 ≤ e.releaseCount.toNat := Iff.rfl

end

/-- A sample leaves a run count within the counts of the entry that judged it: ONSET and RELEASE count on by 1, and the
run that reaches the entry's count goes to ACTIVE or CLEAR with 0. -/
theorem Entry.after_within {e : Entry} (he : e.Valid) {l : Live} (hl : l.Within e) (value : Half) (q : Byte) :
    (e.after l value q).Within e := by
  obtain ⟨-, -, -, honset, -, hrelease, -⟩ := he
  unfold Entry.after Entry.judge
  obtain ⟨state, run, previous, lastSeen⟩ := l
  generalize e.onsetQualifies previous value = onset, e.releaseQualifies previous value = release
  cases state with
  | clear =>
    cases onset with
    | false => rfl
    | true =>
      by_cases h : e.onsetCount.toNat = 1
      · simp [Entry.transition, h]
      · simp only [Entry.transition, h, if_true, if_false, Live.within_onset]
        omega
  | onset =>
    rw [Live.within_onset] at hl
    cases onset with
    | false => rfl
    | true =>
      by_cases h : run + 1 = e.onsetCount.toNat
      · simp [Entry.transition, h]
      · simp only [Entry.transition, h, if_true, if_false, Live.within_onset]
        omega
  | active =>
    cases release with
    | false => rfl
    | true =>
      by_cases h : e.releaseCount.toNat = 1
      · simp [Entry.transition, h]
      · simp only [Entry.transition, h, if_true, if_false, Live.within_release]
        omega
  | release =>
    rw [Live.within_release] at hl
    cases release with
    | false => rfl
    | true =>
      by_cases h : run + 1 = e.releaseCount.toNat
      · simp [Entry.transition, h]
      · simp only [Entry.transition, h, if_true, if_false, Live.within_release]
        omega

/-! ### What keeps it: one rule per update of the table -/

section
variable {t : Table} (h : t.Ok)
include h

/-- A valid entry written to SHADOW (R30). -/
theorem Table.Ok.written (c : Channel) {e : Entry} (he : e.Valid) : Table.Ok { t with shadow := t.shadow.set c e } := by
  refine ⟨h.active, fun d => ?_, h.live⟩
  rw [Fin.getElem_fin, Vector.getElem_set]
  split
  · exact he
  · exact h.shadow d

/-- ACTIVE copied into SHADOW (R31). -/
theorem Table.Ok.loaded : Table.Ok { t with shadow := t.active } := ⟨h.active, h.active, h.live⟩

/-- One sample judged (R44). -/
theorem Table.Ok.sampled (q : Byte) (ts : Word) (raises : List Raise) (x : Sample) :
    Table.Ok { t with live := (evaluateSample t.active q ts (t.live, raises) x).1 } := by
  refine ⟨h.active, h.shadow, fun c => ?_⟩
  by_cases hc : x.channel = c
  · subst hc
    rw [evaluateSample_own]
    exact Entry.after_within (h.active _) (h.live _) x.value q
  · rw [evaluateSample_other _ _ _ _ _ _ hc]
    exact h.live c

end

/-- The samples of a frame judged one after another (R44, R56). -/
theorem Table.Ok.evaluatedFrom {t : Table} (h : t.Ok) (q : Byte) (ts : Word) (xs : List Sample) (raises : List Raise) :
    Table.Ok { t with live := (xs.foldl (evaluateSample t.active q ts) (t.live, raises)).1 } := by
  induction xs generalizing t raises with
  | nil => exact h
  | cons x xs ih => exact ih (h.sampled q ts raises x) _

theorem Table.Ok.evaluated {t : Table} (h : t.Ok) (f : Frame) :
    Table.Ok { t with live := (evaluate t.active t.live f).1 } :=
  h.evaluatedFrom f.sequence f.timestamp f.samples []

/-- An application: where the entry changes the channel restarts in CLEAR, elsewhere its counts are as before
(R66, R67). -/
theorem Ce.applyCommit_tableOk {ce : Ce} (h : ce.table.Ok) : ce.applyCommit.table.Ok := by
  refine ⟨h.shadow, h.shadow, fun c => ?_⟩
  change (ce.applyCommit.live[c]).Within ce.shadow[c]
  rw [Ce.applyCommit_live]
  split
  next heq =>
    rw [heq]
    exact h.live c
  · rfl

/-! ### The events that change the table -/

/-- A commit applied on an occasion, or not. -/
theorem State.applyPending_tableOk (occasion : Occasion) (first : Option Byte) {s : State} (h : s.ce.table.Ok) :
    (s.applyPending occasion first).ce.table.Ok := by
  rcases s.applyPending_cases occasion first with ⟨-, e⟩ | ⟨tag, -, e⟩ | ⟨tag, -, e⟩ <;> rw [e]
  · exact h
  · exact Ce.applyCommit_tableOk h
  · exact Ce.applyCommit_tableOk h

/-- A frame boundary: the pending commit is applied and the frame evaluated against the new ACTIVE bank (R42). -/
theorem State.boundary_tableOk {s : State} (h : s.ce.table.Ok) : s.boundary.ce.table.Ok := by
  rcases s.boundary_cases with e | ⟨f, rest, -, -, e⟩
  · rwa [e]
  · obtain ⟨_, _, _, hstages, -⟩ := State.stages_eq f ({ s with alr := { s.alr with ifq := rest } } : State)
    have happlied := State.applyPending_tableOk .frame (some f.sequence)
      (s := { s with alr := { s.alr with ifq := rest } }) h
    rw [e, hstages]
    exact happlied.evaluated f

/-- A declaration handled by the CE: the pending commit is applied (R69). -/
theorem State.takeDeclaration_tableOk {s : State} (h : s.ce.table.Ok) : s.takeDeclaration.ce.table.Ok := by
  unfold State.takeDeclaration
  split
  · exact h
  · exact State.applyPending_tableOk .stale none h

/-! ### The events that leave the CE as it is -/

theorem State.loseLock_ce (s : State) : s.loseLock.ce = s.ce := by
  obtain ⟨⟨_, _, e⟩, -, -, -⟩ := acquisition_frame s []
  rw [e]

theorem State.arrive_ce (frame : List Byte) (s : State) : (s.arrive frame).ce = s.ce := by
  obtain ⟨-, ⟨_, _, e⟩, -, -⟩ := acquisition_frame s frame
  rw [e]

theorem State.expire_ce (s : State) : s.expire.ce = s.ce := by
  obtain ⟨-, -, ⟨_, _, e⟩, -⟩ := acquisition_frame s []
  rw [e]

theorem State.period_ce (s : State) : s.period.ce = s.ce := by
  obtain ⟨-, -, -, ⟨_, _, e⟩⟩ := acquisition_frame s []
  rw [e]

theorem State.takeRaise_ce (source : RaiseSource) (s : State) : (s.takeRaise source).ce = s.ce := by
  obtain ⟨_, _, e⟩ := takeRaise_frame s source
  rw [e]

theorem State.attempt_ce (s : State) : s.attempt.ce = s.ce := by
  obtain ⟨_, e⟩ := attempt_frame s
  rw [e]

theorem State.receive_ce (frame : List Byte) (s : State) : (s.receive frame).ce = s.ce := by
  obtain ⟨_, _, e, -⟩ := receive_frame s frame
  rw [e]

theorem State.start_ce (s : State) : s.start.ce = s.ce := by
  obtain ⟨_, _, e, -⟩ := start_frame s
  rw [e]

/-- Every event keeps the table invariant. -/
theorem eventEffect_tableOk (i : Instr) {s : State} (h : s.ce.table.Ok) : (eventEffect i s).ce.table.Ok := by
  have unchanged {t : State} (e : t.ce = s.ce) : t.ce.table.Ok := e ▸ h
  cases i with
  | frameBoundary => exact State.boundary_tableOk h
  | declarationHandedToCe => exact State.takeDeclaration_tableOk h
  | lockLost => exact unchanged s.loseLock_ce
  | arrival frame => exact unchanged (s.arrive_ce frame)
  | staleTimerExpiry => exact unchanged s.expire_ce
  | factorRaise source => exact unchanged (s.takeRaise_ce source)
  | selectionAttempt => exact unchanged s.attempt_ce
  | commandFrame frame | creditFrame frame => exact unchanged (s.receive_ce frame)
  | transmissionStart => exact unchanged s.start_ce
  | _ => exact h

/-! ### The commands: WRITE-ENTRY, LOAD-SHADOW and COMMIT alone change the table -/

theorem returnChecked_ce (f : CommandFrame) (depth : Nat) (c : Option FactorNo) (s : State) :
    (returnChecked f depth c s).ce = s.ce := by
  unfold returnChecked
  split
  · rfl
  split
  · rfl
  split <;> rfl

theorem substituteChecked_table (f : CommandFrame) (c : Channel) (form : Form) (value : Half) (s : State) :
    (substituteChecked f c form value s).ce.table = s.ce.table := by
  unfold substituteChecked
  dsimp only
  split
  · split <;> rfl
  all_goals
    split
    · rfl
    split
    · rfl
    split <;> rfl

/-- The commands on other tables and lists leave the banks and the live state as they are. -/
theorem commandAct_table (f : CommandFrame) {i : Instr} (hw : ∀ tag channel args, i ≠ .writeEntry tag channel args)
    (hl : ∀ tag, i ≠ .loadShadow tag) (hc : ∀ tag, i ≠ .commit tag) (s : State) :
    (commandAct f i s).ce.table = s.ce.table := by
  cases i with
  | writeEntry tag channel args => exact absurd rfl (hw tag channel args)
  | loadShadow tag => exact absurd rfl (hl tag)
  | commit tag => exact absurd rfl (hc tag)
  | readEntry | setGroup | readGroup | clearFactors | reportGate | setLink | cancelCapture =>
    simp only [commandAct, readEntry, setGroup, readGroup, clearFactors, reportGate, setLink, cancelCapture]
    split <;> rfl
  | readStatus tag clearFlag =>
    simp only [commandAct, readStatus]
    split <;> rfl
  | returnLevel tag depth presence factor =>
    simp only [commandAct, returnLevel]
    split
    · rfl
    split
    · split
      · rfl
      · rw [returnChecked_ce]
    · rw [returnChecked_ce]
  | substitute tag channel form value =>
    simp only [commandAct, substitute]
    split
    · exact substituteChecked_table ..
    · rfl
  | capture tag channels limit =>
    simp only [commandAct, capture]
    split
    · rfl
    split
    · rfl
    split
    · rfl
    split <;> rfl
  | _ => rfl

theorem writeEntry_tableOk (f : CommandFrame) (channel : Byte) (args : EntryArgs) {s : State} (h : s.ce.table.Ok) :
    (writeEntry f channel args s).ce.table.Ok := by
  unfold writeEntry
  split
  · exact h
  next c _ =>
    split
    · exact h
    split
    · exact h
    next hpass => exact h.written c (EntryArgs.passes_of_failedCheck hpass).valid

theorem loadShadow_tableOk (f : CommandFrame) {s : State} (h : s.ce.table.Ok) : (loadShadow f s).ce.table.Ok := by
  unfold loadShadow
  split
  · exact h
  · exact h.loaded

theorem commitBanks_tableOk (f : CommandFrame) {s : State} (h : s.ce.table.Ok) : (commitBanks f s).ce.table.Ok := by
  unfold commitBanks
  split
  · exact h
  split
  · exact h
  · exact Ce.applyCommit_tableOk h

/-- Every command's act keeps the table invariant. -/
theorem commandAct_tableOk (f : CommandFrame) (i : Instr) {s : State} (h : s.ce.table.Ok) :
    (commandAct f i s).ce.table.Ok := by
  have unchanged {t : State} (e : t.ce.table = s.ce.table) : t.ce.table.Ok := e ▸ h
  cases i with
  | writeEntry tag channel args => exact writeEntry_tableOk f channel args h
  | loadShadow tag => exact loadShadow_tableOk f h
  | commit tag => exact commitBanks_tableOk f h
  | _ => exact unchanged (commandAct_table f (by simp) (by simp) (by simp) s)

end Sys2Proof.Machine

namespace Sys2Proof.Proofs

open Sys2Proof.Machine

/-- Settles O53: the invariant is one of the banks and the live state, kept by every event, every command's act and a
period. -/
theorem everyStepKeepsTheTableOk : Obligations.EveryStepKeepsTheTableOk := by
  unfold Obligations.EveryStepKeepsTheTableOk
  intro s t hs hstep
  rw [State.tableOk_iff] at hs ⊢
  exact step_keeps (Inv := fun s => s.ce.table.Ok) (fun _ _ h => h)
    (fun _ _ _ h => exec_keeps (Inv := fun s => s.ce.table.Ok) (fun _ _ => Table.ok_reset) (fun _ h => h)
      (fun i _ _ _ h => eventEffect_tableOk i h) (fun i f _ _ _ _ _ h => commandAct_tableOk f i h) h)
    (fun s h => s.period_ce.symm ▸ h) hs hstep

end Sys2Proof.Proofs
end

section
/-! The limits and the predicates of an entry (R45 to R49). -/

namespace Sys2Proof.Machine

/-! ### The sample range -/

/-- A two-byte field read as signed lies in the sample range. -/
theorem half_toInt_mem (h : Half) : -32768 ≤ h.toInt ∧ h.toInt ≤ 32767 := by
  have hlow := BitVec.le_toInt h
  have hhigh := BitVec.toInt_lt (x := h)
  omega

/-- `saturate` as the two cases of R45. -/
theorem saturate_eq (x : Int) :
    saturate x = if x < -32768 then -32768 else if 32767 < x then 32767 else x := by
  unfold saturate
  split
  · omega
  · split <;> omega

theorem saturate_of_lt {x : Int} (h : x < -32768) : saturate x = -32768 := by
  rw [saturate_eq, if_pos h]

theorem saturate_of_gt {x : Int} (h : 32767 < x) : saturate x = 32767 := by
  rw [saturate_eq, if_neg (by omega), if_pos h]

theorem saturate_of_mem {x : Int} (hlow : -32768 ≤ x) (hhigh : x ≤ 32767) : saturate x = x := by
  rw [saturate_eq, if_neg (by omega), if_neg (by omega)]

/-- Held within the sample range, a number not above a sample stays not above it. -/
theorem saturate_le {x : Int} {h : Half} (hx : x ≤ h.toInt) : saturate x ≤ h.toInt := by
  have := half_toInt_mem h
  unfold saturate
  omega

/-- Held within the sample range, a number not below a sample stays not below it. -/
theorem le_saturate {x : Int} {h : Half} (hx : h.toInt ≤ x) : h.toInt ≤ saturate x := by
  have := half_toInt_mem h
  unfold saturate
  omega

/-! ### The derived limits against the bounds (R45) -/

theorem Entry.highReleaseLimit_le (e : Entry) : e.highReleaseLimit ≤ e.high.toInt := saturate_le (by omega)
theorem Entry.le_lowReleaseLimit (e : Entry) : e.low.toInt ≤ e.lowReleaseLimit := le_saturate (by omega)
theorem Entry.lowOuterLimit_le (e : Entry) : e.lowOuterLimit ≤ e.low.toInt := saturate_le (by omega)
theorem Entry.le_highOuterLimit (e : Entry) : e.high.toInt ≤ e.highOuterLimit := le_saturate (by omega)

/-- Check 9 of R29 keeps the release limits of an OUTSIDE entry between its bounds, so neither is held (R45). -/
theorem Entry.releaseLimits_outside {e : Entry} (he : e.Valid) (hm : e.mode = .outside) :
    e.highReleaseLimit = e.high.toInt - e.hysteresis.toNat ∧
      e.lowReleaseLimit = e.low.toInt + e.hysteresis.toNat ∧ e.lowReleaseLimit ≤ e.highReleaseLimit := by
  obtain ⟨-, -, -, -, -, -, -, -, hwindow⟩ := he
  have hspan := hwindow hm
  have hhigh := half_toInt_mem e.high
  have hlow := half_toInt_mem e.low
  have hh : e.highReleaseLimit = e.high.toInt - e.hysteresis.toNat := saturate_of_mem (by omega) (by omega)
  have hl : e.lowReleaseLimit = e.low.toInt + e.hysteresis.toNat := saturate_of_mem (by omega) (by omega)
  exact ⟨hh, hl, by omega⟩

/-! ### The predicates by mode (R46, R47, R48) -/

section
variable {e : Entry} (p : Option Half) (v : Half)

theorem Entry.qualifies_off (h : e.mode = .off) :
    e.onsetQualifies p v = false ∧ e.releaseQualifies p v = false := by
  simp [Entry.onsetQualifies, Entry.releaseQualifies, h]

theorem Entry.qualifies_above (h : e.mode = .above) :
    (e.onsetQualifies p v = true ↔ e.high.toInt < v.toInt) ∧
      (e.releaseQualifies p v = true ↔ v.toInt ≤ e.highReleaseLimit) := by
  simp [Entry.onsetQualifies, Entry.releaseQualifies, h]

theorem Entry.qualifies_below (h : e.mode = .below) :
    (e.onsetQualifies p v = true ↔ v.toInt < e.low.toInt) ∧
      (e.releaseQualifies p v = true ↔ e.lowReleaseLimit ≤ v.toInt) := by
  simp [Entry.onsetQualifies, Entry.releaseQualifies, h]

theorem Entry.qualifies_outside (h : e.mode = .outside) :
    (e.onsetQualifies p v = true ↔ e.high.toInt < v.toInt ∨ v.toInt < e.low.toInt) ∧
      (e.releaseQualifies p v = true ↔ e.lowReleaseLimit ≤ v.toInt ∧ v.toInt ≤ e.highReleaseLimit) := by
  simp [Entry.onsetQualifies, Entry.releaseQualifies, h]

theorem Entry.qualifies_inside (h : e.mode = .inside) :
    (e.onsetQualifies p v = true ↔ e.low.toInt ≤ v.toInt ∧ v.toInt ≤ e.high.toInt) ∧
      (e.releaseQualifies p v = true ↔ v.toInt < e.lowOuterLimit ∨ e.highOuterLimit < v.toInt) := by
  simp [Entry.onsetQualifies, Entry.releaseQualifies, h]

/-- STEP compares the distance from the previous value with the step limit; without one it qualifies as neither. -/
theorem Entry.qualifies_step (h : e.mode = .step) :
    (e.onsetQualifies p v = true ↔ ∃ b, p = some b ∧ (e.stepLimit.toNat : Int) < |v.toInt - b.toInt|) ∧
      (e.releaseQualifies p v = true ↔ ∃ b, p = some b ∧ |v.toInt - b.toInt| ≤ (e.stepLimit.toNat : Int)) := by
  cases p with
  | none => simp [Entry.onsetQualifies, Entry.releaseQualifies, h]
  | some b =>
    have hdist : (difference v b : Int) = |v.toInt - b.toInt| := Int.natCast_natAbs _
    simp [Entry.onsetQualifies, Entry.releaseQualifies, h, ← hdist]

/-- In every mode the release limits lie on the far side of the bounds, so no sample qualifies as both (R49). -/
theorem Entry.not_onset_and_release (e : Entry) :
    ¬(e.onsetQualifies p v = true ∧ e.releaseQualifies p v = true) := by
  rintro ⟨honset, hrelease⟩
  cases hm : e.mode with
  | off =>
    rw [(Entry.qualifies_off p v hm).1] at honset
    cases honset
  | above =>
    rw [(Entry.qualifies_above p v hm).1] at honset
    rw [(Entry.qualifies_above p v hm).2] at hrelease
    have := e.highReleaseLimit_le
    omega
  | below =>
    rw [(Entry.qualifies_below p v hm).1] at honset
    rw [(Entry.qualifies_below p v hm).2] at hrelease
    have := e.le_lowReleaseLimit
    omega
  | outside =>
    rw [(Entry.qualifies_outside p v hm).1] at honset
    rw [(Entry.qualifies_outside p v hm).2] at hrelease
    have := e.highReleaseLimit_le
    have := e.le_lowReleaseLimit
    omega
  | inside =>
    rw [(Entry.qualifies_inside p v hm).1] at honset
    rw [(Entry.qualifies_inside p v hm).2] at hrelease
    have := e.lowOuterLimit_le
    have := e.le_highOuterLimit
    omega
  | step =>
    obtain ⟨b, hb, hfar⟩ := (Entry.qualifies_step p v hm).1.mp honset
    obtain ⟨b', hb', hnear⟩ := (Entry.qualifies_step p v hm).2.mp hrelease
    obtain rfl : b = b' := Option.some.inj (hb.symm.trans hb')
    omega

end

end Sys2Proof.Machine

namespace Sys2Proof.Proofs

open Sys2Proof.Machine

/-- Settles O12: each limit is a `saturate`, and check 9 of R29 gives the OUTSIDE entry its span. -/
theorem derivedLimits : Obligations.DerivedLimits := by
  unfold Obligations.DerivedLimits
  intro e held
  refine ⟨saturate_eq _, saturate_eq _, saturate_eq _, saturate_eq _, fun he hm => ?_⟩
  obtain ⟨hhigh, hlow, horder⟩ := Entry.releaseLimits_outside he hm
  exact ⟨hhigh, hlow, e.le_lowReleaseLimit, horder, e.highReleaseLimit_le⟩

/-- Settles O13, mode by mode. -/
theorem conditionPredicates : Obligations.ConditionPredicates := by
  unfold Obligations.ConditionPredicates
  intro e p v
  exact ⟨Entry.qualifies_off p v, Entry.qualifies_above p v, Entry.qualifies_below p v, Entry.qualifies_outside p v,
    Entry.qualifies_inside p v, Entry.qualifies_step p v⟩

/-- Settles O14: the predicates of each mode, and a limit that is held at an end of the sample range leaves the value at
that end alone or no value. -/
theorem predicatesNeverHoldTogether : Obligations.PredicatesNeverHoldTogether := by
  unfold Obligations.PredicatesNeverHoldTogether
  intro e p v
  have hv := half_toInt_mem v
  have lowHeld (h : e.low.toInt - e.hysteresis.toNat < -32768) : e.lowOuterLimit = -32768 := saturate_of_lt h
  have highHeld (h : 32767 < e.high.toInt + e.hysteresis.toNat) : e.highOuterLimit = 32767 := saturate_of_gt h
  refine ⟨e.not_onset_and_release p v, fun hm hhigh => ?_, fun hm hlow => ?_, fun hm hhigh => ?_, fun hm hlow => ?_,
    fun hm hlow => ?_, fun hm hhigh => ?_, fun hm hlow hhigh => ?_, fun hm hlow hhigh => ?_, fun hm hlow hhigh => ?_⟩
  · rw [Bool.eq_false_iff, ne_eq, (Entry.qualifies_above p v hm).1]
    omega
  · rw [Bool.eq_false_iff, ne_eq, (Entry.qualifies_below p v hm).1]
    omega
  · have hlimit : e.highReleaseLimit = -32768 := saturate_of_lt hhigh
    rw [(Entry.qualifies_above p v hm).2]
    omega
  · have hlimit : e.lowReleaseLimit = 32767 := saturate_of_gt hlow
    rw [(Entry.qualifies_below p v hm).2]
    omega
  · have hlimit := lowHeld hlow
    rw [(Entry.qualifies_inside p v hm).2]
    omega
  · have hlimit := highHeld hhigh
    rw [(Entry.qualifies_inside p v hm).2]
    omega
  · have hlimits := And.intro (lowHeld hlow) (highHeld hhigh)
    rw [Bool.eq_false_iff, ne_eq, (Entry.qualifies_inside p v hm).2]
    omega
  · have honset : e.onsetQualifies p v = true := (Entry.qualifies_inside p v hm).1.mpr (by omega)
    exact ⟨honset, Bool.eq_false_iff.mpr fun hrelease => e.not_onset_and_release p v ⟨honset, hrelease⟩⟩
  · have hcount := e.hysteresis.isLt
    have hlowLimit : e.lowReleaseLimit = -32768 + e.hysteresis.toNat := by
      rw [← hlow]
      exact saturate_of_mem (by omega) (by omega)
    have hhighLimit : e.highReleaseLimit = 32767 - e.hysteresis.toNat := by
      rw [← hhigh]
      exact saturate_of_mem (by omega) (by omega)
    rw [Bool.eq_false_iff, ne_eq, (Entry.qualifies_outside p v hm).1, (Entry.qualifies_outside p v hm).2, hlowLimit,
      hhighLimit]
    omega

end Sys2Proof.Proofs
end

section
/-! One sample at its channel: the twelve transitions of a channel (R50 to R53), and the live state and the raise that
follow from one (R54, R55). -/

namespace Sys2Proof.Machine

/-! ### The state machine of a channel, one equation per row of its table (R50 to R53) -/

section
variable {e : Entry} {run : Nat} (o r : Bool)

theorem Entry.transition_clear_reached (h : e.onsetCount.toNat = 1) :
    e.transition .clear run true r = (.active, 0, e.onsetFactor) := by simp [Entry.transition, h]
theorem Entry.transition_clear_counts (h : 2 ≤ e.onsetCount.toNat) :
    e.transition .clear run true r = (.onset, 1, none) := by
  have hmore : e.onsetCount.toNat ≠ 1 := by omega
  simp [Entry.transition, hmore]
theorem Entry.transition_clear_stays : e.transition .clear run false r = (.clear, 0, none) := rfl

theorem Entry.transition_onset_reached (h : run + 1 = e.onsetCount.toNat) :
    e.transition .onset run true r = (.active, 0, e.onsetFactor) := by simp [Entry.transition, h]
theorem Entry.transition_onset_counts (h : run + 1 < e.onsetCount.toNat) :
    e.transition .onset run true r = (.onset, run + 1, none) := by simp [Entry.transition, h.ne]
theorem Entry.transition_onset_drops : e.transition .onset run false r = (.clear, 0, none) := rfl

theorem Entry.transition_active_reached (h : e.releaseCount.toNat = 1) :
    e.transition .active run o true = (.clear, 0, e.releaseFactor) := by simp [Entry.transition, h]
theorem Entry.transition_active_counts (h : 2 ≤ e.releaseCount.toNat) :
    e.transition .active run o true = (.release, 1, none) := by
  have hmore : e.releaseCount.toNat ≠ 1 := by omega
  simp [Entry.transition, hmore]
theorem Entry.transition_active_stays : e.transition .active run o false = (.active, 0, none) := rfl

theorem Entry.transition_release_reached (h : run + 1 = e.releaseCount.toNat) :
    e.transition .release run o true = (.clear, 0, e.releaseFactor) := by simp [Entry.transition, h]
theorem Entry.transition_release_counts (h : run + 1 < e.releaseCount.toNat) :
    e.transition .release run o true = (.release, run + 1, none) := by simp [Entry.transition, h.ne]
theorem Entry.transition_release_drops : e.transition .release run o false = (.active, 0, none) := rfl

end

/-- The judgement of a sample is the transition of the channel state and of the predicates it meets (R44). -/
theorem Entry.judge_eq {e : Entry} {l : Live} {v : Half} {state : ChannelState} {onset release : Bool}
    (hs : l.state = state) (ho : e.onsetQualifies l.previous v = onset)
    (hr : e.releaseQualifies l.previous v = release) :
    e.judge l v = e.transition state l.run onset release := by
  rw [Entry.judge, hs, ho, hr]

/-- What a judgement does: the channel's live state set, and the raise of the factor it names handed on with its full
first cause (R54, R55). -/
theorem evaluateSample_of_judge {active : Bank} {live : Vector Live 32} {x : Sample} {state : ChannelState} {run : Nat}
    {named : Option ConditionFactor} (h : active[x.channel].judge live[x.channel] x.value = (state, run, named))
    (q : Byte) (ts : Word) (raises : List Raise) :
    evaluateSample active q ts (live, raises) x =
      (live.set x.channel ⟨state, run, some x.value, some q⟩,
        raises ++ (named.map fun f => conditionRaise f q ts x).toList) := by
  simp only [evaluateSample, Entry.after, h]

end Sys2Proof.Machine

namespace Sys2Proof.Proofs

open Sys2Proof.Machine

/-- Settles O15, one transition of the state machine per row of the table of R50 to R53. -/
theorem sampleMovesItsChannel : Obligations.SampleMovesItsChannel := by
  unfold Obligations.SampleMovesItsChannel
  intro active q ts live raises x e l onset release n m outcome
  have moves {state : ChannelState} {run : Nat} {named : Option ConditionFactor}
      (h : e.judge l x.value = (state, run, named)) : outcome state run named :=
    evaluateSample_of_judge h q ts raises
  refine ⟨fun hs ho hn => moves ?_, fun hs ho hn => moves ?_, fun hs ho => moves ?_,
    fun hs ho hn => moves ?_, fun hs ho hn => moves ?_, fun hs ho => moves ?_,
    fun hs hr hm => moves ?_, fun hs hr hm => moves ?_, fun hs hr => moves ?_,
    fun hs hr hm => moves ?_, fun hs hr hm => moves ?_, fun hs hr => moves ?_⟩
  · exact (Entry.judge_eq hs ho rfl).trans (Entry.transition_clear_reached _ hn)
  · exact (Entry.judge_eq hs ho rfl).trans (Entry.transition_clear_counts _ hn)
  · exact (Entry.judge_eq hs ho rfl).trans (Entry.transition_clear_stays _)
  · exact (Entry.judge_eq hs ho rfl).trans (Entry.transition_onset_reached _ hn)
  · exact (Entry.judge_eq hs ho rfl).trans (Entry.transition_onset_counts _ hn)
  · exact (Entry.judge_eq hs ho rfl).trans (Entry.transition_onset_drops _)
  · exact (Entry.judge_eq hs rfl hr).trans (Entry.transition_active_reached _ hm)
  · exact (Entry.judge_eq hs rfl hr).trans (Entry.transition_active_counts _ hm)
  · exact (Entry.judge_eq hs rfl hr).trans (Entry.transition_active_stays _)
  · exact (Entry.judge_eq hs rfl hr).trans (Entry.transition_release_reached _ hm)
  · exact (Entry.judge_eq hs rfl hr).trans (Entry.transition_release_counts _ hm)
  · exact (Entry.judge_eq hs rfl hr).trans (Entry.transition_release_drops _)

end Sys2Proof.Proofs
end

section
/-! FRAME_BOUNDARY: when a boundary is taken (R39), what the application of stage 1 leaves in the CE and in the response
queue (R66 to R68), the substitution list and the output frame (R57, R58, R122 to R124), a capture record across the
boundary (R133 to R137), and the whole boundary field by field. -/

namespace Sys2Proof.Machine

/-! ### When a boundary is taken (R39) -/

/-- The state with the head of the IFQ taken, on which the eight stages act. -/
def State.frameTaken (rest : List Frame) (s : State) : State := { s with alr := { s.alr with ifq := rest } }

theorem exec_frameBoundary {s : State} (hp : s.porst = .released) : exec .frameBoundary s = .next s.boundary :=
  exec_event_released hp rfl nofun nofun

/-- When R39 allows, the row is the eight stages for the head of the IFQ. -/
theorem exec_frameBoundary_stages {s : State} {f : Frame} {rest : List Frame} (hp : s.porst = .released)
    (hq : s.alr.ifq = f :: rest)
    (hfree : s.dlt.forwardQueue.length ≤ 7 ∨ s.ce.forwarding = .off ∨ s.dlt.link = .down) :
    exec .frameBoundary s = .next ((s.frameTaken rest).stages f) := by
  have hstages : s.boundary = (s.frameTaken rest).stages f := by
    simp only [State.boundary, hq, s.ceFree_iff.mpr hfree, if_true]
    rfl
  rw [exec_frameBoundary hp, hstages]

/-- Without a frame, or while the CE is held, no boundary is taken. -/
theorem State.boundary_held {s : State} (h : s.alr.ifq = [] ∨ s.ceFree = false) : s.boundary = s := by
  rcases s.boundary_cases with e | ⟨f, rest, hq, hfree, -⟩
  · exact e
  · rcases h with h | h
    · rw [hq] at h
      cases h
    · rw [hfree] at h
      cases h

/-! ### What an application leaves (R66 to R68) -/

/-- The CE after an application: SHADOW applied where a commit is pending, whether its response is suppressed or not
(R66, R70). -/
def Ce.committed (ce : Ce) : Ce := if ce.commit = none then ce else ce.applyCommit

theorem Ce.committed_of_none {ce : Ce} (h : ce.commit = none) : ce.committed = ce := if_pos h
theorem Ce.committed_of_pending {ce : Ce} (h : ce.commit ≠ none) : ce.committed = ce.applyCommit := if_neg h

/-- The response of an application: the COMMIT-DONE of a pending commit that is not suppressed (R68, R71). -/
def Ce.commitDone (occasion : Occasion) (first : Option Byte) (ce : Ce) : List Response :=
  match ce.commit with
  | some ⟨tag, false⟩ => [⟨tag, 4, .commitDone, commitDonePayload occasion first ce.differing⟩]
  | _ => []

section
variable (ce : Ce)

@[simp] theorem Ce.committed_shadow : ce.committed.shadow = ce.shadow := by unfold Ce.committed; split <;> rfl
@[simp] theorem Ce.committed_forwarding : ce.committed.forwarding = ce.forwarding := by
  unfold Ce.committed; split <;> rfl
@[simp] theorem Ce.committed_forwarded : ce.committed.forwarded = ce.forwarded := by unfold Ce.committed; split <;> rfl
@[simp] theorem Ce.committed_shed : ce.committed.shed = ce.shed := by unfold Ce.committed; split <;> rfl
@[simp] theorem Ce.committed_substitutions : ce.committed.substitutions = ce.substitutions := by
  unfold Ce.committed; split <;> rfl
@[simp] theorem Ce.committed_captures : ce.committed.captures = ce.captures := by unfold Ce.committed; split <;> rfl

@[simp] theorem Ce.committed_commit : ce.committed.commit = none := by
  by_cases h : ce.commit = none
  · rw [Ce.committed_of_none h, h]
  · rw [Ce.committed_of_pending h, Ce.applyCommit_commit]

/-- An application keeps every channel's previous value (R67). -/
@[simp] theorem Ce.committed_previous (c : Channel) : ce.committed.live[c].previous = ce.live[c].previous := by
  by_cases h : ce.commit = none
  · rw [Ce.committed_of_none h]
  · rw [Ce.committed_of_pending h, Ce.applyCommit_live]
    split <;> rfl

end

@[simp] theorem Dlt.convert_nil (d : Dlt) : d.convert [] = d := by simp [Dlt.convert]

/-- A conversion of two lists takes a reservation for each response of the first, then of the second (R155). -/
theorem Dlt.convert_append (rs qs : List Response) (d : Dlt) :
    d.convert (rs ++ qs) = { d with
      responses := d.responses ++ rs ++ qs
      reservations := d.reservations - rs.length - qs.length } := by
  simp [Dlt.convert, Nat.sub_sub]

/-- An application changes the CE and the response queue alone. -/
theorem State.applyPending_eq (occasion : Occasion) (first : Option Byte) (s : State) :
    s.applyPending occasion first =
      { s with ce := s.ce.committed, dlt := s.dlt.convert (s.ce.commitDone occasion first) } := by
  rcases s.applyPending_cases occasion first with ⟨hc, e⟩ | ⟨tag, hc, e⟩ | ⟨tag, hc, e⟩ <;> rw [e]
  · simp [Ce.committed, Ce.commitDone, hc]
  · simp [Ce.committed, Ce.commitDone, hc, State.onCe]
  · simp [Ce.committed, Ce.commitDone, hc, State.onCe, State.onDlt]

/-! ### Evaluation (R43, R56) -/

/-- An evaluation, with its raises behind those already handed over, is one fold over the frame's entries. -/
theorem evaluate_handed (active : Bank) (live : Vector Live 32) (f : Frame) (raises : List Raise) :
    ((evaluate active live f).1, raises ++ (evaluate active live f).2) =
      f.samples.foldl (evaluateSample active f.sequence f.timestamp) (live, raises) :=
  (foldl_evaluateSample_raises active f.sequence f.timestamp f.samples live raises).symm

/-! ### The substitution list and the output frame (R57, R122 to R124) -/

/-- Where a previous value stands for every pending HOLD, a next change becomes the substitution in force, or deletes
the entry (R122, R123). -/
theorem SubstitutionEntry.applyNext_eq {live : Vector Live 32} {e : SubstitutionEntry}
    (h : e.next = some .hold → live[e.channel].previous ≠ none) :
    e.applyNext live =
      match e.next with
      | none => some e
      | some (.force v) => some ⟨e.channel, some (.force v), none⟩
      | some .hold => live[e.channel].previous.map fun v => ⟨e.channel, some (.hold v), none⟩
      | some .remove => none := by
  obtain ⟨c, current, next⟩ := e
  cases next with
  | none => rfl
  | some change =>
    cases change with
    | force v => rfl
    | remove => rfl
    | hold =>
      obtain ⟨v, hv⟩ := Option.ne_none_iff_exists'.mp (h rfl)
      simp only [SubstitutionEntry.applyNext, hv, Option.map_some]

/-- An entry of the output frame, by the list's first entry for its channel (R57, R124). -/
theorem Sample.output_eq (list : List SubstitutionEntry) (x : Sample) :
    x.output list =
      match list.find? (fun e => e.channel == x.channel) with
      | some ⟨_, some (.force v), _⟩ => ⟨x.channel, v, true⟩
      | some ⟨_, some (.hold v), _⟩ => ⟨x.channel, v, true⟩
      | _ => ⟨x.channel, x.value, false⟩ := by
  unfold Sample.output inForce
  cases list.find? fun e => e.channel == x.channel with
  | none => rfl
  | some e =>
    obtain ⟨c, current, next⟩ := e
    cases current with
    | none => rfl
    | some sub => cases sub <;> rfl

/-! ### A capture record across a boundary (R133 to R137) -/

/-- Complete: no channel of the set is without its slot (R135). -/
theorem CaptureRecord.complete_iff (r : CaptureRecord) :
    r.complete = true ↔ ∀ c : Channel, r.names c → r.slots[c] ≠ none := by
  simp only [CaptureRecord.complete, allChannels, List.all_eq_true, List.mem_finRange, true_implies, Bool.or_eq_true,
    Bool.not_eq_true', Option.isSome_iff_ne_none]
  exact forall_congr' fun c => by cases r.names c <;> simp

/-- The countdown of a COLLECTING record (R135). -/
theorem CaptureRecord.countdown_collecting {r : CaptureRecord} {left : Nat} (h : r.phase = .collecting left) :
    r.countdown =
      if ∀ c : Channel, r.names c → r.slots[c] ≠ none then
        .inr (r.completion .captureComplete (r.limit - left + 1))
      else if left ≤ 1 then .inr (r.completion .captureTimeout r.limit)
      else .inl { r with phase := .collecting (left - 1) } := by
  have hlast : left - 1 = 0 ↔ left ≤ 1 := by omega
  simp only [CaptureRecord.countdown, h, r.complete_iff, hlast]

/-- The frames a record has left when a boundary offers it one: its limit when it starts there (R133). -/
def CaptureRecord.left (r : CaptureRecord) : Nat :=
  match r.phase with
  | .waiting => r.limit
  | .collecting remaining => remaining

theorem CaptureRecord.start_eq (r : CaptureRecord) : r.start = { r with phase := .collecting r.left } := by
  obtain ⟨tag, channels, limit, phase, slots⟩ := r
  cases phase <;> rfl

/-- A COLLECTING record keeps the slots it has and takes the others from the frame (R134). -/
theorem CaptureRecord.collect_collecting {r : CaptureRecord} {left : Nat} (h : r.phase = .collecting left)
    (list : List SubstitutionEntry) (f : Frame) :
    r.collect list f = { r with
      slots := Vector.ofFn fun c =>
        if r.slots[c] ≠ none then r.slots[c]
        else if r.names c then (f.firstSample c).map fun x => ⟨x.value, f.sequence,
            list.any fun e => e.channel == c && e.current.isSome⟩
        else none } := by
  simp only [CaptureRecord.collect, h]
  congr 2
  funext c
  cases r.slots[c] with
  | some x => simp
  | none => simp [Frame.first, Frame.firstSample, substituted, Function.comp_def]

/-- Stages 3, 5 and 8 together, for one record (R133 to R135). -/
theorem CaptureRecord.countdown_collect_start (list : List SubstitutionEntry) (f : Frame) (r : CaptureRecord) :
    (r.start.collect list f).countdown = r.atBoundary list f := by
  rw [CaptureRecord.start_eq, CaptureRecord.collect_collecting rfl, CaptureRecord.countdown_collecting rfl]
  rfl

/-! ### The whole boundary (R41, R42) -/

/-- The state after a boundary that R39 allows, field by field, from the CE that stage 1 leaves; the disposal decides the
forward queue and its two counters (R58). -/
theorem exec_frameBoundary_eq {s : State} {f : Frame} {rest : List Frame} (hp : s.porst = .released)
    (hq : s.alr.ifq = f :: rest)
    (hfree : s.dlt.forwardQueue.length ≤ 7 ∨ s.ce.forwarding = .off ∨ s.dlt.link = .down) :
    let list := s.ce.committed.applyChanges.substitutions
    let result := evaluate s.ce.committed.active s.ce.committed.live f
    let ends := s.ce.captures.map (CaptureRecord.atBoundary list f)
    ∃ queue forwarded shed,
      exec .frameBoundary s = .next { s with
        alr := { s.alr with ifq := rest }
        ce := { s.ce.committed with
          live := result.1
          forwarded := forwarded
          shed := shed
          substitutions := list
          captures := ends.filterMap Sum.getLeft? }
        dlt := Dlt.convert (s.ce.commitDone .frame (some f.sequence) ++ ends.filterMap Sum.getRight?)
          { s.dlt with forwardQueue := queue }
        handed := { s.handed with condition := s.handed.condition ++ result.2 } } ∧
      ((s.ce.forwarding = .on ∧ s.dlt.link = .up ∧ queue = s.dlt.forwardQueue ++ [f.output list] ∧
          forwarded = s.ce.forwarded + 1 ∧ shed = s.ce.shed) ∨
        (s.ce.forwarding = .on ∧ s.dlt.link = .down ∧ queue = s.dlt.forwardQueue ∧
          forwarded = s.ce.forwarded ∧ shed = s.ce.shed + 1) ∨
        (s.ce.forwarding = .off ∧ queue = s.dlt.forwardQueue ∧ forwarded = s.ce.forwarded ∧
          shed = s.ce.shed)) := by
  intro list result ends
  obtain ⟨queue, forwarded, shed, hstages, hdisposal⟩ := State.stages_eq f (s.frameTaken rest)
  rw [State.applyPending_eq] at hstages hdisposal
  simp only [List.filterMap_map, Function.comp_def, CaptureRecord.countdown_collect_start] at hstages hdisposal
  simp only [State.frameTaken, Ce.committed_forwarding, Ce.committed_forwarded, Ce.committed_shed,
    Dlt.convert_link, Dlt.convert_forwardQueue] at hdisposal
  refine ⟨queue, forwarded, shed, ?_, hdisposal⟩
  rw [exec_frameBoundary_stages hp hq hfree, hstages, Dlt.convert_append, List.filterMap_map, List.filterMap_map,
    ← s.ce.committed_captures]
  rfl

end Sys2Proof.Machine

namespace Sys2Proof.Proofs

open Sys2Proof.Machine

/-- Settles O16: with the forward queue full the CE is held (`State.ceFree_iff`). -/
theorem heldEngineTakesNoFrame : Obligations.HeldEngineTakesNoFrame := by
  unfold Obligations.HeldEngineTakesNoFrame
  intro s hp h
  rw [exec_frameBoundary hp, State.boundary_held]
  refine h.imp_right fun ⟨hon, hup, hfull⟩ => Bool.eq_false_iff.mpr fun hfree => ?_
  rcases s.ceFree_iff.mp hfree with hroom | hoff | hdown
  · omega
  · simp [hon] at hoff
  · simp [hup] at hdown

/-- Settles O17: stage 1 fixes the bank and the live state, and the frame is evaluated on them. -/
theorem boundaryCommitsThenEvaluates : Obligations.BoundaryCommitsThenEvaluates := by
  unfold Obligations.BoundaryCommitsThenEvaluates
  intro s f rest hp hq hfree
  obtain ⟨queue, forwarded, shed, hexec, -⟩ := exec_frameBoundary_eq hp hq hfree
  refine ⟨s.ce.committed.active, s.ce.committed.live, _, hexec, fun h => ?_, fun h => ?_, rfl, rfl, rfl, rfl, rfl, rfl,
    s.ce.committed_shadow, s.ce.committed_forwarding, s.ce.committed_commit, evaluate_handed .., rfl, rfl⟩
  · rw [Ce.committed_of_none h]
    exact ⟨rfl, rfl⟩
  · rw [Ce.committed_of_pending h]
    exact ⟨rfl, s.ce.applyCommit_live⟩

/-- Settles O18: an application keeps the previous values that the pending HOLDs take, and the disposal is by forward
mode and D-link state. -/
theorem boundarySubstitutesAndDisposes : Obligations.BoundarySubstitutesAndDisposes := by
  unfold Obligations.BoundarySubstitutesAndDisposes
  rintro s f rest hp hq hfree ⟨-, -, hlist⟩
  obtain ⟨queue, forwarded, shed, hexec, hdisposal⟩ := exec_frameBoundary_eq hp hq hfree
  refine ⟨_, hexec, ?_, ?_⟩
  · change s.ce.committed.substitutions.filterMap (SubstitutionEntry.applyNext s.ce.committed.live) = _
    rw [Ce.committed_substitutions]
    refine List.filterMap_congr fun e he => ?_
    have hhold (h : e.next = some .hold) : s.ce.committed.live[e.channel].previous ≠ none := by
      rw [Ce.committed_previous]
      exact (hlist e he).2 h
    have happly := SubstitutionEntry.applyNext_eq hhold
    rw [Ce.committed_previous] at happly
    exact happly
  · intro output
    have houtput : f.output s.ce.committed.applyChanges.substitutions = output :=
      congrArg (OutputFrame.mk f.sequence f.timestamp f.gapBefore) (List.map_congr_left fun x _ => x.output_eq _)
    rw [houtput] at hdisposal
    rcases hdisposal with ⟨hon, hup, hmoved⟩ | ⟨hon, hdown, hmoved⟩ | ⟨hoff, hmoved⟩
    · simp [hon, hup, hmoved]
    · simp [hon, hdown, hmoved]
    · simp [hoff, hmoved]

/-- Settles O19: stages 3, 5 and 8 make of each record what `CaptureRecord.atBoundary` says. -/
theorem boundaryCompletesCaptures : Obligations.BoundaryCompletesCaptures := by
  unfold Obligations.BoundaryCompletesCaptures
  intro s f rest hp hq hfree
  obtain ⟨queue, forwarded, shed, hexec, -⟩ := exec_frameBoundary_eq hp hq hfree
  refine ⟨_, hexec, ?_⟩
  intro ends done completions
  have hdone : s.ce.commitDone .frame (some f.sequence) = done := by
    unfold Ce.commitDone
    rw [Ce.differing_eq]
    rfl
  refine ⟨rfl, ?_⟩
  rw [hdone]
  exact Dlt.convert_append ..

end Sys2Proof.Proofs
end

section
/-! LINK_DOWN, the delivery link reset, as one update of four blocks (R146, R147). -/

namespace Sys2Proof.Machine

/-- The DLT's share: a frame in transmission is abandoned and counted (R146). -/
theorem Dlt.dropLink_eq (d : Dlt) :
    d.dropLink = ⟨.down, 0, none, [], [], 0, if d.transmitting = none then d.counters
      else { d.counters with abandoned := d.counters.abandoned + 1 }⟩ := by
  unfold Dlt.dropLink
  cases d.transmitting <;> simp

end Sys2Proof.Machine

namespace Sys2Proof.Proofs

open Sys2Proof.Machine

/-- Settles O29: the four shares as updates of their blocks. -/
theorem linkDownResetsEveryShare : Obligations.LinkDownResetsEveryShare := by
  unfold Obligations.LinkDownResetsEveryShare
  intro s hp
  have hexec : exec .linkDown s = .next s.linkReset := exec_event_released hp rfl nofun nofun
  rw [hexec, State.linkReset, State.onDlt, Dlt.dropLink_eq]
  rfl

end Sys2Proof.Proofs
end

section
/-! DECLARATION_HANDED_TO_CE and COMMIT: the two ways a commit is applied away from a frame boundary (R63 to R67, R69),
and the end of every capture at a declaration (R138). -/

namespace Sys2Proof.Machine

/-! ### An application field by field (R66, R67) -/

/-- The CE after an application in the four fields it concerns. -/
theorem Ce.committed_eq (ce : Ce) :
    ce.committed = { ce with
      active := if ce.commit = none then ce.active else ce.shadow
      live := ce.committed.live
      commit := none } := by
  obtain ⟨_, _, _, _, _, _, commit, _, _⟩ := ce
  cases commit <;> rfl

/-- With no commit pending an application changes the ACTIVE bank and the live state alone. -/
theorem Ce.applyCommit_of_none {ce : Ce} (h : ce.commit = none) :
    ce.applyCommit = { ce with active := ce.shadow, live := ce.applyCommit.live } := by
  obtain ⟨_, _, _, _, _, _, commit, _, _⟩ := ce
  cases h
  rfl

/-! ### A declaration handed to the CE (R69, R138) -/

theorem exec_declarationHandedToCe {s : State} (hp : s.porst = .released) :
    exec .declarationHandedToCe s = .next s.takeDeclaration :=
  exec_event_released hp rfl nofun nofun

theorem State.takeDeclaration_none {s : State} (h : s.handed.declarations = 0) : s.takeDeclaration = s := by
  simp only [State.takeDeclaration, h]

/-- A declaration taken: the commit first, then every record completes, each response in its reservation. -/
theorem State.takeDeclaration_succ {s : State} {n : Nat} (h : s.handed.declarations = n + 1) :
    s.takeDeclaration = { s with
      ce := { s.ce.committed with captures := [] }
      dlt := s.dlt.convert (s.ce.commitDone .stale none ++
        s.ce.captures.map fun r => r.completion .captureStale r.examined)
      handed := { s.handed with declarations := n } } := by
  have hcommit : s.takeDeclaration =
      ((s.onHanded fun h => { h with declarations := n }).applyPending .stale none).staleCaptures := by
    simp only [State.takeDeclaration, h]
  rw [hcommit, State.applyPending_eq, Dlt.convert_append, ← s.ce.committed_captures]
  rfl

/-! ### COMMIT (R63 to R65) -/

/-- The A-link is delivering (R63). -/
theorem Alr.delivering_iff (a : Alr) : a.delivering = true ↔ a.lock = .locked ∧ a.freshness = .fresh := by
  simp only [Alr.delivering, Bool.and_eq_true, beq_iff_eq]

/-- The A-link is not delivering (R63). -/
theorem Alr.not_delivering_iff (a : Alr) : a.delivering = false ↔ a.lock = .unlocked ∨ a.freshness ≠ .fresh := by
  rw [← Bool.not_eq_true, a.delivering_iff]
  cases a.lock <;> simp

theorem commitBanks_pending (f : CommandFrame) {s : State} {p : PendingCommit} (hp : s.ce.commit = some p) :
    commitBanks f s = s.commitPending f p := by
  simp only [commitBanks, hp]

theorem commitBanks_delivering (f : CommandFrame) {s : State} (hp : s.ce.commit = none)
    (hd : s.alr.delivering = true) :
    commitBanks f s = (s.onCe fun ce => { ce with commit := some ⟨f.tag, false⟩ }).onDlt Dlt.reserve := by
  simp only [commitBanks, hp, hd, if_true]

theorem commitBanks_atOnce (f : CommandFrame) {s : State} (hp : s.ce.commit = none) (hd : s.alr.delivering = false) :
    commitBanks f s =
      (s.onCe Ce.applyCommit).respond f .commitDone (commitDonePayload .command none s.ce.differing) := by
  simp only [commitBanks, hp, hd, Bool.false_eq_true, if_false]

end Sys2Proof.Machine

namespace Sys2Proof.Proofs

open Sys2Proof.Machine

/-- Settles O20: `Ce.committed` gives the banks and the live state, and the responses of the commit and of the captures
go into their reservations in that order. -/
theorem declarationAppliesCommitThenEndsCaptures : Obligations.DeclarationAppliesCommitThenEndsCaptures := by
  unfold Obligations.DeclarationAppliesCommitThenEndsCaptures
  intro s hp
  rw [exec_declarationHandedToCe hp]
  refine ⟨fun hnone => ?_, fun n hn => ?_⟩
  · rw [State.takeDeclaration_none hnone]
  · intro done ends
    have hdone : s.ce.commitDone .stale none = done := by
      unfold Ce.commitDone
      rw [Ce.differing_eq]
      rfl
    have hends : (s.ce.captures.map fun r => r.completion .captureStale r.examined) = ends := rfl
    refine ⟨s.ce.committed.live, _, rfl, fun h => ?_, fun h => ?_, ?_⟩
    · rw [Ce.committed_of_none h]
    · rw [Ce.committed_of_pending h]
      exact s.ce.applyCommit_live
    · rw [State.takeDeclaration_succ hn, hdone, hends, Dlt.convert_append]
      nth_rw 1 [Ce.committed_eq]

/-- Settles O34: by the commit record, then by whether the A-link is delivering. -/
theorem commitIsRefusedPendingOrAtOnce : Obligations.CommitIsRefusedPendingOrAtOnce := by
  unfold Obligations.CommitIsRefusedPendingOrAtOnce
  intro s tag rest hx
  rw [exec_command_executes rfl rfl hx]
  refine ⟨fun p hp => ?_, fun hp hlock hfresh => ?_, fun hp hidle => ?_⟩
  · rw [commandAct, commitBanks_pending (s := s.dequeued rest) _ hp, State.commitPending_dequeued]
  · have hd : s.alr.delivering = true := s.alr.delivering_iff.mpr ⟨hlock, hfresh⟩
    rw [commandAct, commitBanks_delivering (s := s.dequeued rest) _ hp hd]
    rfl
  · have hd : s.alr.delivering = false := s.alr.not_delivering_iff.mpr hidle
    refine ⟨s.ce.applyCommit.live, s.ce.applyCommit_live, ?_⟩
    rw [commandAct, commitBanks_atOnce (s := s.dequeued rest) _ hp hd, ← Ce.differing_eq,
      ← Ce.applyCommit_of_none hp]
    rfl

end Sys2Proof.Proofs
end

section
/-! The factors and groups of the FRU: a raise (R79, R80), effective levels and candidates (R86, R87), a clear (R81),
and the group commands at their turn (R82, R89 to R91). -/

namespace Sys2Proof.Machine

/-! ### A raise (R79, R80) -/

/-- A raise with its saturating count as the two cases of R79. -/
theorem FactorRecord.raise_eq (c : Cause) (r : FactorRecord) :
    r.raise c = if r.raised then { r with count := if r.count < 255 then r.count + 1 else 255 } else ⟨true, 1, c⟩ := by
  have hcap : min Config.raiseCap (r.count + 1) = if r.count < 255 then r.count + 1 else 255 := by
    unfold Config.raiseCap
    split <;> omega
  rw [FactorRecord.raise, hcap]

section
variable {s : State} {x : Raise} {rest : List Raise}

theorem State.takeRaise_acquisition_none (h : s.handed.acquisition = []) : s.takeRaise .acquisitionLink = s := by
  simp only [State.takeRaise, h]

theorem State.takeRaise_condition_none (h : s.handed.condition = []) : s.takeRaise .conditionEngine = s := by
  simp only [State.takeRaise, h]

theorem State.takeRaise_acquisition (h : s.handed.acquisition = x :: rest) :
    s.takeRaise .acquisitionLink =
      { s with handed := { s.handed with acquisition := rest }, fru := s.fru.raise x } := by
  simp only [State.takeRaise, h]
  rfl

theorem State.takeRaise_condition (h : s.handed.condition = x :: rest) :
    s.takeRaise .conditionEngine =
      { s with handed := { s.handed with condition := rest }, fru := s.fru.raise x } := by
  simp only [State.takeRaise, h]
  rfl

end

/-! ### Effective levels and candidates (R86, R87) -/

theorem Fru.effectiveLevel_linkStale (fru : Fru) : fru.effectiveLevel 31 = 4 := if_pos rfl

theorem Fru.effectiveLevel_other (fru : Fru) {f : FactorNo} (h : f ≠ 31) :
    fru.effectiveLevel f = fru.groups[groupOfFactor f].level.val := if_neg h

theorem Fru.candidate_iff (fru : Fru) (f : FactorNo) :
    fru.candidate f = true ↔ fru.factors[f].raised = true ∧
      fru.groups[groupOfFactor f].enables.getLsbD (f.val % 4) = true ∧ 1 ≤ fru.effectiveLevel f := by
  simp only [Fru.candidate, Fru.enabled, Bool.and_eq_true, decide_eq_true_eq, and_assoc]

/-- Factor 4g + k is place k of group g (R85). -/
theorem groupOfFactor_eq {f : FactorNo} {g : GroupNo} {k : Fin 4} (h : f.val = 4 * g.val + k.val) :
    groupOfFactor f = g ∧ f.val % 4 = k.val :=
  ⟨Fin.ext (by simp only [groupOfFactor]; omega), by omega⟩

/-! ### Clears (R81, R82) -/

/-- A run of clears, in the order of the list. -/
def Fru.clearAll (fs : List FactorNo) (fru : Fru) : Fru := fs.foldl (fun fru x => fru.clear x) fru

/-- A run of clears changes the factor records alone. -/
theorem Fru.clearAll_eq (fs : List FactorNo) (fru : Fru) :
    fru.clearAll fs = { fru with factors := (fru.clearAll fs).factors } := by
  induction fs generalizing fru with
  | nil => rfl
  | cons x fs ih => exact ih (fru.clear x)

/-- The records that a run of clears names are at their reset value, every other one is as it was. -/
theorem Fru.clearAll_getElem (fs : List FactorNo) (fru : Fru) (f : FactorNo) :
    (fru.clearAll fs).factors[f] = if f ∈ fs then FactorRecord.reset else fru.factors[f] := by
  induction fs generalizing fru with
  | nil => simp [Fru.clearAll]
  | cons x fs ih =>
    have hfirst : (fru.clear x).factors[f] = if f = x then FactorRecord.reset else fru.factors[f] := by
      simp only [Fru.clear, Fin.getElem_fin, Vector.getElem_set, Fin.ext_iff, eq_comm]
    calc ((fru.clear x).clearAll fs).factors[f]
        = if f ∈ fs then FactorRecord.reset else (fru.clear x).factors[f] := ih (fru.clear x)
      _ = if f ∈ x :: fs then FactorRecord.reset else fru.factors[f] := by
        rw [hfirst]
        by_cases hx : f = x <;> simp [hx]

/-- The factors that a mask names, by their group and their place in it (R82). -/
theorem mem_maskedFactors {g : GroupNo} {m : BitVec 4} {f : FactorNo} :
    f ∈ maskedFactors g m ↔ f.val / 4 = g.val ∧ m.getLsbD (f.val % 4) = true := by
  simp only [maskedFactors, List.mem_map, List.mem_filter, List.mem_finRange, true_and]
  constructor
  · rintro ⟨k, hk, rfl⟩
    obtain ⟨hg, hplace⟩ := groupOfFactor_eq (f := factorOfGroup g k) rfl
    exact ⟨congrArg Fin.val hg, hplace.symm ▸ hk⟩
  · rintro ⟨hg, hk⟩
    refine ⟨⟨f.val % 4, by omega⟩, hk, Fin.ext ?_⟩
    simp only [factorOfGroup]
    omega

/-! ### SET-GROUP (R89) -/

theorem setGroup_bad (f : CommandFrame) {group level enables : Byte}
    (h : 7 < group.toNat ∨ 3 < level.toNat ∨ 15 < enables.toNat) (s : State) :
    setGroup f group level enables s = s.badArgument f := by
  unfold setGroup
  split
  next g l e hg hl he =>
    rcases h with h | h | h
    · rw [groupOf_none h] at hg
      cases hg
    · rw [levelOf_none h] at hl
      cases hl
    · rw [nibbleOf_none h] at he
      cases he
  · rfl

theorem setGroup_done (f : CommandFrame) {group level enables : Byte} {g : GroupNo} {l : Fin 4} {e : BitVec 4}
    (hg : group.toNat = g.val) (hl : level.toNat = l.val) (he : enables.toNat = e.toNat) (s : State) :
    setGroup f group level enables s =
      (s.onFru fun fru => { fru with groups := fru.groups.set g ⟨l, e⟩ }).respond f .done [group, level, enables] := by
  simp only [setGroup, groupOf_some hg, levelOf_some hl, nibbleOf_some he]

/-! ### READ-GROUP (R91, R181) -/

theorem readGroup_bad (f : CommandFrame) {group : Byte} (h : 7 < group.toNat) (s : State) :
    readGroup f group s = s.badArgument f := by
  simp only [readGroup, groupOf_none h]

/-- READ-GROUP in range answers with the group record and the items of its four factors in their order. -/
theorem readGroup_done (f : CommandFrame) {group : Byte} {g : GroupNo} (hg : group.toNat = g.val) (s : State) :
    readGroup f group s = s.respond f .done
      ([group, BitVec.ofNat 8 s.fru.groups[g].level.val, BitVec.ofNat 8 s.fru.groups[g].enables.toNat] ++
        s.fru.factorBytes (factorOfGroup g 0) ++ s.fru.factorBytes (factorOfGroup g 1) ++
        s.fru.factorBytes (factorOfGroup g 2) ++ s.fru.factorBytes (factorOfGroup g 3)) := by
  have hplaces : List.finRange 4 = [0, 1, 2, 3] := rfl
  simp only [readGroup, groupOf_some hg, hplaces, List.flatMap_cons, List.flatMap_nil, List.append_nil, nibbleByte_eq,
    List.append_assoc]
  rfl

/-- The item of a factor with the bits of its first-cause presence byte (R178, R179, R181). -/
theorem Fru.factorBytes_eq (fru : Fru) (f : FactorNo) :
    fru.factorBytes f =
      [BitVec.ofNat 8 f.val, BitVec.ofNat 8 (fru.effectiveLevel f), (if fru.factors[f].raised then 1 else 0),
        BitVec.ofNat 8 fru.factors[f].count,
        (if fru.factors[f].cause.sequence.isSome then 1 else 0) +
          (if fru.factors[f].cause.timestamp.isSome then 2 else 0) +
          (if fru.factors[f].cause.channel.isSome then 4 else 0) +
          (if fru.factors[f].cause.value.isSome then 8 else 0),
        fru.factors[f].cause.sequence.getD 0] ++ wordBytes (fru.factors[f].cause.timestamp.getD 0) ++
        [BitVec.ofNat 8 ((fru.factors[f].cause.channel.map (·.val)).getD 0)] ++
        halfBytes (fru.factors[f].cause.value.getD 0) := by
  rw [Fru.factorBytes, Cause.bytes, Cause.presence, flagBytes_four]
  simp only [List.cons_append, List.nil_append, List.append_assoc]
  rfl

/-! ### CLEAR-FACTORS (R82) -/

theorem clearFactors_bad (f : CommandFrame) {group mask : Byte} (h : 7 < group.toNat ∨ 15 < mask.toNat) (s : State) :
    clearFactors f group mask s = s.badArgument f := by
  unfold clearFactors
  split
  next g m hg hm =>
    rcases h with h | h
    · rw [groupOf_none h] at hg
      cases hg
    · rw [nibbleOf_none h] at hm
      cases hm
  · rfl

/-- CLEAR-FACTORS in range clears what the mask names and answers with the counts held before. -/
theorem clearFactors_done (f : CommandFrame) {group mask : Byte} {g : GroupNo} {m : BitVec 4}
    (hg : group.toNat = g.val) (hm : mask.toNat = m.toNat) (s : State) :
    clearFactors f group mask s =
      (s.onFru (Fru.clearAll (maskedFactors g m))).respond f .done
        ([group, mask] ++ s.fru.maskedCounts g m) := by
  simp only [clearFactors, groupOf_some hg, nibbleOf_some hm]
  rfl

end Sys2Proof.Machine

namespace Sys2Proof.Proofs

open Sys2Proof.Machine

/-- Settles O21: what the source handed over first, if anything, raises its record by `FactorRecord.raise_eq`. -/
theorem raiseActsOnItsRecord : Obligations.RaiseActsOnItsRecord := by
  unfold Obligations.RaiseActsOnItsRecord
  intro s hp raised
  have hexec (source : RaiseSource) : exec (.factorRaise source) s = .next (s.takeRaise source) :=
    exec_event_released hp rfl nofun nofun
  have hraise (x : Raise) : s.fru.raise x =
      { s.fru with factors := s.fru.factors.set x.factor (raised x s.fru.factors[x.factor]) } := by
    rw [Fru.raise, FactorRecord.raise_eq]
  refine ⟨fun h => ?_, fun h => ?_, fun x rest h => ?_, fun x rest h => ?_⟩
  · rw [hexec, State.takeRaise_acquisition_none h]
  · rw [hexec, State.takeRaise_condition_none h]
  · rw [hexec, State.takeRaise_acquisition h, hraise]
  · rw [hexec, State.takeRaise_condition h, hraise]

/-- Settles O22: the two cases of the effective level, and candidacy at the factor's place in its group. -/
theorem effectiveLevelAndCandidates : Obligations.EffectiveLevelAndCandidates := by
  unfold Obligations.EffectiveLevelAndCandidates
  intro fru
  refine ⟨fru.effectiveLevel_linkStale, fun f hf g hg => ?_, fun f g k hk => ?_⟩
  · obtain rfl : groupOfFactor f = g := Fin.ext hg.symm
    have hlevel := fru.effectiveLevel_other hf
    exact ⟨hlevel, by omega⟩
  · obtain ⟨rfl, hplace⟩ := groupOfFactor_eq hk
    rw [← hplace]
    exact fru.candidate_iff f

/-- Settles O35: by the range of the three arguments. -/
theorem setGroupWritesItsRecord : Obligations.SetGroupWritesItsRecord := by
  unfold Obligations.SetGroupWritesItsRecord
  intro s tag group level enables rest hx
  rw [exec_command_executes rfl rfl hx]
  refine ⟨fun hbad => ?_, fun g l e hg hl he => ?_⟩
  · rw [commandAct, setGroup_bad _ hbad, State.badArgument_dequeued]
  · rw [commandAct, setGroup_done _ hg hl he]
    rfl

/-- Settles O36: by the range of the group, and the layout of a factor's item. -/
theorem readGroupReportsItsFactors : Obligations.ReadGroupReportsItsFactors := by
  unfold Obligations.ReadGroupReportsItsFactors
  intro s tag group rest hx
  rw [exec_command_executes rfl rfl hx]
  refine ⟨fun hbad => ?_, fun g hg => ?_⟩
  · rw [commandAct, readGroup_bad _ hbad, State.badArgument_dequeued]
  · intro item
    have hitem (f : FactorNo) : (s.dequeued rest).fru.factorBytes f = item f := s.fru.factorBytes_eq f
    rw [commandAct, readGroup_done _ hg, State.respond_dequeued, hitem, hitem, hitem, hitem]
    rfl

/-- Settles O37: the run of clears over the factors that the mask names, and the counts at the four places. -/
theorem clearFactorsClearsTheNamedOnes : Obligations.ClearFactorsClearsTheNamedOnes := by
  unfold Obligations.ClearFactorsClearsTheNamedOnes
  intro s tag group mask rest hx
  rw [exec_command_executes rfl rfl hx]
  refine ⟨fun hbad => ?_, fun g hg hmask => ?_⟩
  · rw [commandAct, clearFactors_bad _ hbad, State.badArgument_dequeued]
  · intro count
    have hm : mask.toNat = (mask.setWidth 4).toNat := by
      rw [BitVec.toNat_setWidth]
      omega
    have hbit (k : Nat) (hk : k < 4) : (mask.setWidth 4).getLsbD k = mask.getLsbD k := by
      simp [hk]
    refine ⟨(s.fru.clearAll (maskedFactors g (mask.setWidth 4))).factors, fun f => ?_, ?_⟩
    · rw [Fru.clearAll_getElem]
      simp only [mem_maskedFactors, hbit _ (Nat.mod_lt f.val (by decide))]
      rfl
    · have hcounts : s.fru.maskedCounts g (mask.setWidth 4) =
          [count 0 (by omega), count 1 (by omega), count 2 (by omega), count 3 (by omega)] := by
        have hplace (k : Fin 4) : (if (mask.setWidth 4).getLsbD k.val then
            byteOf s.fru.factors[factorOfGroup g k].count else 0) = count k.val k.isLt := by
          rw [hbit k.val k.isLt]
          rfl
        rw [Fru.maskedCounts, List.map_congr_left fun k _ => hplace k]
        rfl
      rw [commandAct, clearFactors_done _ hg hm, ← hcounts, ← Fru.clearAll_eq]
      rfl

end Sys2Proof.Proofs
end

section
/-! The report unit's invariant: lawful factor records, the level stack with the report slot, and the raises on their
way, kept by every update of the FRU and of what is handed over, and so by every step (R77, R78, R80, R94, R95). -/

namespace Sys2Proof.Machine

/-! ### The invariant of the FRU -/

theorem FactorRecord.ok_reset : FactorRecord.reset.Ok := ⟨⟨fun _ => rfl, fun _ => rfl⟩, Nat.zero_le _, fun _ => rfl⟩

/-- A raise leaves a record raised with a count of 1 to 255 (R77, R79). -/
theorem FactorRecord.Ok.raised {r : FactorRecord} (h : r.Ok) (c : Cause) : (r.raise c).Ok := by
  obtain ⟨-, hcap, -⟩ := h
  change r.count ≤ 255 at hcap
  rw [FactorRecord.raise_eq]
  cases hr : r.raised with
  | true =>
    have hpos : (if r.count < 255 then r.count + 1 else 255) ≠ 0 := by split <;> omega
    have hmax : (if r.count < 255 then r.count + 1 else 255) ≤ 255 := by split <;> omega
    exact ⟨iff_of_false nofun hpos, hmax, nofun⟩
  | false => exact ⟨iff_of_false nofun nofun, Nat.le_add_left 1 254, nofun⟩

/-- The two invariants of the FRU, field by field: lawful factor records, saved levels that strictly increase from 0
below L, L at most 4, and a report in the slot of level L at depth 1 or more. -/
structure Fru.ReportOk (fru : Fru) : Prop where
  factors : ∀ f : FactorNo, (fru.factors[f]).Ok
  increasing : (fru.saved ++ [fru.level]).Pairwise (· < ·)
  top : fru.level ≤ 4
  bottom : (fru.saved ++ [fru.level]).head? = some 0
  slot : ∀ r, fru.slot = some r → 1 ≤ fru.depth ∧ r.level = fru.level

theorem Fru.reportOk_reset : Fru.reset.ReportOk where
  factors f := by
    have hreset : Fru.reset.factors[f] = FactorRecord.reset := Vector.getElem_replicate f.isLt
    exact hreset ▸ FactorRecord.ok_reset
  increasing := List.pairwise_singleton _ 0
  top := Nat.zero_le 4
  bottom := rfl
  slot := nofun

/-! ### A pop (R94) -/

theorem Fru.pop_empty {fru : Fru} (h : fru.saved = []) : fru.pop = fru := by
  obtain ⟨_, _, _, _, _, _, _⟩ := fru
  cases h
  rfl

theorem Fru.pop_saved {fru : Fru} {below : List Nat} {level : Nat} (h : fru.saved = below ++ [level]) :
    fru.pop = { fru with level := level, saved := below } := by
  simp [Fru.pop, h]

/-! ### What keeps it: one rule per update of the FRU -/

section
variable {fru : Fru} (h : fru.ReportOk)
include h

/-- Groups, gate and serial are free. -/
theorem Fru.ReportOk.configured (groups : Vector GroupRecord 8) (gate : Gate) (serial : Half) :
    Fru.ReportOk { fru with groups := groups, gate := gate, serial := serial } :=
  ⟨h.factors, h.increasing, h.top, h.bottom, h.slot⟩

/-- A raise taken (R79). -/
theorem Fru.ReportOk.raised (x : Raise) : (fru.raise x).ReportOk := by
  refine ⟨fun f => ?_, h.increasing, h.top, h.bottom, h.slot⟩
  rw [Fru.raise, Fin.getElem_fin, Vector.getElem_set]
  split
  · exact (h.factors x.factor).raised x.cause
  · exact h.factors f

/-- Factors cleared (R81). -/
theorem Fru.ReportOk.cleared (fs : List FactorNo) : (fru.clearAll fs).ReportOk := by
  rw [Fru.clearAll_eq]
  refine ⟨fun f => ?_, h.increasing, h.top, h.bottom, h.slot⟩
  rw [Fru.clearAll_getElem]
  split
  · exact FactorRecord.ok_reset
  · exact h.factors f

/-- A selection of a factor above L: L is saved, and the report in the slot has the new L (R100, R104). -/
theorem Fru.ReportOk.selected {f : FactorNo} (hl : fru.level < fru.effectiveLevel f) (freshness : Freshness) :
    (fru.select f freshness).ReportOk where
  factors := h.factors
  increasing := by
    refine List.pairwise_append.mpr ⟨h.increasing, List.pairwise_singleton _ _, fun a ha b hb => ?_⟩
    obtain rfl : b = fru.effectiveLevel f := List.mem_singleton.mp hb
    rcases List.mem_append.mp ha with ha | ha
    · exact ((List.pairwise_append.mp h.increasing).2.2 a ha _ (.head _)).trans hl
    · rwa [List.mem_singleton.mp ha]
  top := fru.effectiveLevel_le f
  bottom := by rw [Fru.select, List.head?_append, h.bottom]; rfl
  slot r hr := by
    obtain rfl := Option.some.inj hr
    exact ⟨by simp [Fru.select, Fru.depth], rfl⟩

/-- The report in the slot taken into transmission (R152). -/
theorem Fru.ReportOk.reported : Fru.ReportOk { fru with slot := none } :=
  ⟨h.factors, h.increasing, h.top, h.bottom, nofun⟩

/-- The FRU's share of a delivery link reset (R112). -/
theorem Fru.ReportOk.dropped : fru.dropLink.ReportOk :=
  ⟨h.factors, List.pairwise_singleton _ 0, Nat.zero_le 4, rfl, nofun⟩

/-- A pop with an empty slot: the top saved level, which lies below L, becomes L (R94). -/
theorem Fru.ReportOk.popped (hs : fru.slot = none) : fru.pop.ReportOk := by
  rcases List.eq_nil_or_concat' fru.saved with hnil | ⟨below, level, hsaved⟩
  · rwa [Fru.pop_empty hnil]
  · obtain ⟨hbelow, -, hunder⟩ := List.pairwise_append.mp h.increasing
    have hlevel : level < fru.level := hunder level (by simp [hsaved]) _ (.head _)
    have hbottom := h.bottom
    rw [List.head?_append_of_ne_nil _ (by simp [hsaved])] at hbottom
    rw [hsaved] at hbelow hbottom
    rw [Fru.pop_saved hsaved]
    refine ⟨h.factors, hbelow, hlevel.le.trans h.top, hbottom, fun r hr => ?_⟩
    rw [hs] at hr
    cases hr

/-- An accepted RETURN with an empty slot: the factor it carries is cleared, then the pop (R107). -/
theorem Fru.ReportOk.returned (hs : fru.slot = none) (c : Option FactorNo) : (fru.accept c).ReportOk := by
  cases c with
  | none => exact h.popped hs
  | some x => exact (h.cleared [x]).popped hs

end

/-! ### The events that change the FRU -/

theorem State.takeRaise_reportOk (source : RaiseSource) {s : State} (h : s.fru.ReportOk) :
    (s.takeRaise source).fru.ReportOk := by
  cases source with
  | acquisitionLink =>
    cases hr : s.handed.acquisition with
    | nil => rwa [State.takeRaise_acquisition_none hr]
    | cons x rest =>
      rw [State.takeRaise_acquisition hr]
      exact h.raised x
  | conditionEngine =>
    cases hr : s.handed.condition with
    | nil => rwa [State.takeRaise_condition_none hr]
    | cons x rest =>
      rw [State.takeRaise_condition hr]
      exact h.raised x

/-- The factor chosen has an effective level above L (R99). -/
theorem Fru.chosen_above {fru : Fru} {f : FactorNo} (h : fru.chosen = some f) : fru.level < fru.effectiveLevel f := by
  obtain ⟨v, -, hfind⟩ := List.exists_of_findSome?_eq_some h
  have hf := List.find?_some hfind
  simp only [Bool.and_eq_true, beq_iff_eq, decide_eq_true_eq] at hf
  obtain ⟨⟨-, hv⟩, hlevel⟩ := hf
  rwa [hv]

theorem State.attempt_reportOk {s : State} (h : s.fru.ReportOk) : s.attempt.fru.ReportOk := by
  unfold State.attempt
  split
  · exact h
  next f hf =>
    split
    · exact h.selected (Fru.chosen_above hf) _
    · exact h

theorem State.start_reportOk {s : State} (h : s.fru.ReportOk) : s.start.fru.ReportOk := by
  unfold State.start
  split
  · split
    · exact h.reported
    split
    · exact h
    split <;> exact h
  · exact h

/-! ### The events that leave the FRU as it is -/

theorem State.loseLock_fru (s : State) : s.loseLock.fru = s.fru := by
  obtain ⟨⟨_, _, e⟩, -, -, -⟩ := acquisition_frame s []
  rw [e]

theorem State.arrive_fru (frame : List Byte) (s : State) : (s.arrive frame).fru = s.fru := by
  obtain ⟨-, ⟨_, _, e⟩, -, -⟩ := acquisition_frame s frame
  rw [e]

theorem State.expire_fru (s : State) : s.expire.fru = s.fru := by
  obtain ⟨-, -, ⟨_, _, e⟩, -⟩ := acquisition_frame s []
  rw [e]

theorem State.period_fru (s : State) : s.period.fru = s.fru := by
  obtain ⟨-, -, -, ⟨_, _, e⟩⟩ := acquisition_frame s []
  rw [e]

theorem State.boundary_fru (s : State) : s.boundary.fru = s.fru := by
  obtain ⟨_, _, _, _, e, -⟩ := boundary_frame s
  rw [e]

theorem State.takeDeclaration_fru (s : State) : s.takeDeclaration.fru = s.fru := by
  obtain ⟨_, _, _, e, -⟩ := takeDeclaration_frame s
  rw [e]

theorem State.receive_fru (frame : List Byte) (s : State) : (s.receive frame).fru = s.fru := by
  obtain ⟨_, _, e, -⟩ := receive_frame s frame
  rw [e]

/-- Every event keeps the FRU lawful. -/
theorem eventEffect_reportOk (i : Instr) {s : State} (h : s.fru.ReportOk) : (eventEffect i s).fru.ReportOk := by
  have unchanged {t : State} (e : t.fru = s.fru) : t.fru.ReportOk := e ▸ h
  cases i with
  | factorRaise source => exact State.takeRaise_reportOk source h
  | selectionAttempt => exact State.attempt_reportOk h
  | transmissionStart => exact State.start_reportOk h
  | linkDown => exact h.dropped
  | lockLost => exact unchanged s.loseLock_fru
  | arrival frame => exact unchanged (s.arrive_fru frame)
  | staleTimerExpiry => exact unchanged s.expire_fru
  | frameBoundary => exact unchanged s.boundary_fru
  | declarationHandedToCe => exact unchanged s.takeDeclaration_fru
  | commandFrame frame | creditFrame frame => exact unchanged (s.receive_fru frame)
  | _ => exact h

/-! ### The commands: SET-GROUP, CLEAR-FACTORS, RETURN and REPORT-GATE alone change the FRU -/

/-- What a command on the FRU can make of it (R82, R89, R97, R107). -/
inductive Fru.Commanded (fru : Fru) : Fru → Prop
  | unchanged : Fru.Commanded fru fru
  | configured (groups : Vector GroupRecord 8) (gate : Gate) :
      Fru.Commanded fru { fru with groups := groups, gate := gate }
  | cleared (fs : List FactorNo) : Fru.Commanded fru (fru.clearAll fs)
  | returned (c : Option FactorNo) (hs : fru.slot = none) : Fru.Commanded fru (fru.accept c)

theorem Fru.ReportOk.commanded {fru fru' : Fru} (h : fru.ReportOk) (hc : fru.Commanded fru') : fru'.ReportOk := by
  cases hc with
  | unchanged => exact h
  | configured groups gate => exact h.configured groups gate _
  | cleared fs => exact h.cleared fs
  | returned c hs => exact h.returned hs c

theorem returnChecked_commanded (f : CommandFrame) (depth : Nat) (c : Option FactorNo) (s : State) :
    s.fru.Commanded (returnChecked f depth c s).fru := by
  unfold returnChecked
  split
  · exact .unchanged
  split
  · exact .unchanged
  next hs =>
    split
    · exact .unchanged
    · exact .returned c hs

theorem returnLevel_commanded (f : CommandFrame) (depth presence factor : Byte) (s : State) :
    s.fru.Commanded (returnLevel f depth presence factor s).fru := by
  unfold returnLevel
  split
  · exact .unchanged
  split
  · split
    · exact .unchanged
    · exact returnChecked_commanded ..
  · exact returnChecked_commanded ..

theorem setGroup_commanded (f : CommandFrame) (group level enables : Byte) (s : State) :
    s.fru.Commanded (setGroup f group level enables s).fru := by
  unfold setGroup
  split
  · exact .configured _ _
  · exact .unchanged

theorem clearFactors_commanded (f : CommandFrame) (group mask : Byte) (s : State) :
    s.fru.Commanded (clearFactors f group mask s).fru := by
  unfold clearFactors
  split
  · exact .cleared _
  · exact .unchanged

theorem reportGate_commanded (f : CommandFrame) (gate : Byte) (s : State) :
    s.fru.Commanded (reportGate f gate s).fru := by
  unfold reportGate
  split
  · exact .unchanged
  · exact .configured _ _

theorem substituteChecked_fru (f : CommandFrame) (c : Channel) (form : Form) (value : Half) (s : State) :
    (substituteChecked f c form value s).fru = s.fru := by
  unfold substituteChecked
  dsimp only
  split
  · split <;> rfl
  all_goals
    split
    · rfl
    split
    · rfl
    split <;> rfl

/-- What the act of any command makes of the FRU. -/
theorem commandAct_commanded (f : CommandFrame) (i : Instr) (s : State) : s.fru.Commanded (commandAct f i s).fru := by
  cases i with
  | setGroup tag group level enables => exact setGroup_commanded f group level enables s
  | clearFactors tag group mask => exact clearFactors_commanded f group mask s
  | returnLevel tag depth presence factor => exact returnLevel_commanded f depth presence factor s
  | reportGate tag gate => exact reportGate_commanded f gate s
  | readEntry | loadShadow | readGroup | setLink | cancelCapture | readStatus =>
    simp only [commandAct, readEntry, loadShadow, readGroup, setLink, cancelCapture, readStatus]
    split <;> exact .unchanged
  | writeEntry tag channel args =>
    simp only [commandAct, writeEntry]
    split
    · exact .unchanged
    split
    · exact .unchanged
    split <;> exact .unchanged
  | commit tag =>
    simp only [commandAct, commitBanks]
    split
    · exact .unchanged
    split <;> exact .unchanged
  | substitute tag channel form value =>
    simp only [commandAct, substitute]
    split
    · rw [substituteChecked_fru]
      exact .unchanged
    · exact .unchanged
  | capture tag channels limit =>
    simp only [commandAct, capture]
    split
    · exact .unchanged
    split
    · exact .unchanged
    split
    · exact .unchanged
    split <;> exact .unchanged
  | _ => exact .unchanged

/-! ### The raises on their way (R80) -/

/-- Raises on their way name factors of their source. -/
structure Handed.SourcesOk (h : Handed) : Prop where
  acquisition : ∀ x ∈ h.acquisition, 28 ≤ x.factor.val
  condition : ∀ x ∈ h.condition, x.factor.val ≤ 27

theorem Handed.sourcesOk_reset : Handed.reset.SourcesOk := ⟨nofun, nofun⟩

section
variable {h : Handed} (hs : h.SourcesOk)
include hs

/-- The declarations on their way are free. -/
theorem Handed.SourcesOk.declarations (n : Nat) : Handed.SourcesOk { h with declarations := n } :=
  ⟨hs.acquisition, hs.condition⟩

/-- A link factor handed over by the ALR (R19). -/
theorem Handed.SourcesOk.linkRaised {f : FactorNo} (hf : 28 ≤ f.val) (q : Option Byte) (ts : Option Word) :
    (h.linkRaise f q ts).SourcesOk := by
  refine ⟨fun x hx => ?_, hs.condition⟩
  rcases List.mem_append.mp hx with hx | hx
  · exact hs.acquisition x hx
  · rwa [List.mem_singleton.mp hx]

/-- A STALE declaration hands over a raise of LINK-STALE (R16). -/
theorem Handed.SourcesOk.declared (n : Nat) :
    Handed.SourcesOk { h.linkRaise 31 none none with declarations := n } :=
  (hs.linkRaised (f := 31) (by decide) none none).declarations n

/-- Condition factors handed over by the CE (R43). -/
theorem Handed.SourcesOk.conditionRaised {rs : List Raise} (hr : ∀ x ∈ rs, x.factor.val ≤ 27) :
    Handed.SourcesOk { h with condition := h.condition ++ rs } :=
  ⟨hs.acquisition, fun x hx => (List.mem_append.mp hx).elim (hs.condition x) (hr x)⟩

end

/-- A sample raises only factors that an entry can name (R27, R55). -/
theorem evaluateSample_factors (active : Bank) (q : Byte) (ts : Word) (live : Vector Live 32) (x : Sample) :
    ∀ r ∈ (evaluateSample active q ts (live, []) x).2, r.factor.val ≤ 27 := by
  intro r hr
  rw [evaluateSample, List.nil_append, Option.mem_toList, Option.map_eq_some_iff] at hr
  obtain ⟨f, -, rfl⟩ := hr
  exact Nat.le_of_lt_succ f.isLt

theorem foldl_evaluateSample_factors (active : Bank) (q : Byte) (ts : Word) (xs : List Sample)
    (live : Vector Live 32) :
    ∀ r ∈ (xs.foldl (evaluateSample active q ts) (live, [])).2, r.factor.val ≤ 27 := by
  induction xs generalizing live with
  | nil => nofun
  | cons x xs ih =>
    have hfold : (x :: xs).foldl (evaluateSample active q ts) (live, []) =
        xs.foldl (evaluateSample active q ts) (evaluateSample active q ts (live, []) x) := rfl
    intro r hr
    rw [hfold, foldl_evaluateSample_raises] at hr
    exact (List.mem_append.mp hr).elim (evaluateSample_factors active q ts live x r) (ih _ r)

/-- A frame raises condition factors alone (R43, R80). -/
theorem evaluate_factors (active : Bank) (live : Vector Live 32) (f : Frame) :
    ∀ r ∈ (evaluate active live f).2, r.factor.val ≤ 27 :=
  foldl_evaluateSample_factors active f.sequence f.timestamp f.samples live

/-! ### The events that hand something over or take it -/

theorem State.arrive_sourcesOk {s : State} (h : s.handed.SourcesOk) (frame : List Byte) :
    (s.arrive frame).handed.SourcesOk := by
  have linkError (q : Option Byte) (ts : Option Word) : (s.handed.linkRaise 28 q ts).SourcesOk :=
    h.linkRaised (by decide) q ts
  cases hl : s.alr.lock with
  | unlocked => rwa [State.arrive_unlocked hl]
  | locked =>
    cases hr : readArrival frame with
    | checkFail =>
      rw [State.arrive_checkFail hl hr]
      exact linkError none none
    | formatFail q ts =>
      rw [State.arrive_formatFail hl hr]
      exact linkError (some q) (some ts)
    | good q ts xs =>
      rcases Nat.lt_or_ge 127 (s.alr.distance q) with hd | hd
      · rw [State.arrive_late hl hr hd]
        exact linkError (some q) (some ts)
      rw [State.arrive_inOrder hl hr hd]
      have hgap : (s.accountGap q ts).handed.SourcesOk := by
        rw [State.accountGap_eq]
        dsimp only
        split
        · exact h.linkRaised (by decide) _ _
        · exact h
      rcases Nat.lt_or_ge 7 s.alr.ifq.length with hfull | hroom
      · rw [State.takeInOrder_overrun q ts xs hfull]
        exact hgap.linkRaised (f := 30) (by decide) (some q) (some ts)
      · rw [State.takeInOrder_accepted q ts xs hroom]
        exact hgap

theorem State.loseLock_sourcesOk {s : State} (h : s.handed.SourcesOk) : s.loseLock.handed.SourcesOk := by
  unfold State.loseLock
  split
  · exact h
  · dsimp only
    split
    · exact h
    · exact h.declared _
    · exact h.declared _

theorem State.expire_sourcesOk {s : State} (h : s.handed.SourcesOk) : s.expire.handed.SourcesOk := by
  unfold State.expire
  split
  · exact h
  · exact h.declared _

theorem State.period_sourcesOk {s : State} (h : s.handed.SourcesOk) : s.period.handed.SourcesOk := by
  rcases s.period_cases with e | ⟨n, -, -, e⟩ | ⟨n, -, -, e⟩ <;> rw [e]
  · exact h
  · exact h.declared _
  · exact h

/-- A boundary hands over the raises of the frame it evaluates (R43). -/
theorem State.boundary_sourcesOk {s : State} (h : s.handed.SourcesOk) : s.boundary.handed.SourcesOk := by
  rcases s.boundary_cases with e | ⟨f, rest, -, -, e⟩
  · rwa [e]
  · obtain ⟨_, _, _, hstages, -⟩ := State.stages_eq f ({ s with alr := { s.alr with ifq := rest } } : State)
    rw [e, hstages, State.applyPending_eq]
    exact h.conditionRaised (evaluate_factors _ _ f)

theorem State.takeDeclaration_sourcesOk {s : State} (h : s.handed.SourcesOk) :
    s.takeDeclaration.handed.SourcesOk := by
  cases hn : s.handed.declarations with
  | zero => rwa [State.takeDeclaration_none hn]
  | succ n =>
    rw [State.takeDeclaration_succ hn]
    exact h.declarations n

/-- The FRU takes the first raise of a source, and the others stay on their way (R80). -/
theorem State.takeRaise_sourcesOk (source : RaiseSource) {s : State} (h : s.handed.SourcesOk) :
    (s.takeRaise source).handed.SourcesOk := by
  cases source with
  | acquisitionLink =>
    cases hr : s.handed.acquisition with
    | nil => rwa [State.takeRaise_acquisition_none hr]
    | cons x rest =>
      rw [State.takeRaise_acquisition hr]
      exact ⟨fun y hy => h.acquisition y (hr ▸ .tail x hy), h.condition⟩
  | conditionEngine =>
    cases hr : s.handed.condition with
    | nil => rwa [State.takeRaise_condition_none hr]
    | cons x rest =>
      rw [State.takeRaise_condition hr]
      exact ⟨h.acquisition, fun y hy => h.condition y (hr ▸ .tail x hy)⟩

/-! ### The events and commands that leave what is handed over as it is -/

theorem State.attempt_handed (s : State) : s.attempt.handed = s.handed := by
  obtain ⟨_, e⟩ := attempt_frame s
  rw [e]

theorem State.start_handed (s : State) : s.start.handed = s.handed := by
  obtain ⟨_, _, e, -⟩ := start_frame s
  rw [e]

theorem State.receive_handed (frame : List Byte) (s : State) : (s.receive frame).handed = s.handed := by
  obtain ⟨_, _, e, -⟩ := receive_frame s frame
  rw [e]

theorem commandAct_handed {i : Instr} {f : CommandFrame} (hc : commandOf i = some f) (s : State) :
    (commandAct f i s).handed = s.handed := by
  obtain ⟨_, _, _, _, _, _, _, _, e⟩ := commandAct_frame hc s
  rw [e]

/-- Every event keeps the raises on their way with their source. -/
theorem eventEffect_sourcesOk (i : Instr) {s : State} (h : s.handed.SourcesOk) :
    (eventEffect i s).handed.SourcesOk := by
  have unchanged {t : State} (e : t.handed = s.handed) : t.handed.SourcesOk := e ▸ h
  cases i with
  | lockLost => exact State.loseLock_sourcesOk h
  | arrival frame => exact State.arrive_sourcesOk h frame
  | staleTimerExpiry => exact State.expire_sourcesOk h
  | frameBoundary => exact State.boundary_sourcesOk h
  | declarationHandedToCe => exact State.takeDeclaration_sourcesOk h
  | factorRaise source => exact State.takeRaise_sourcesOk source h
  | selectionAttempt => exact unchanged s.attempt_handed
  | transmissionStart => exact unchanged s.start_handed
  | commandFrame frame | creditFrame frame => exact unchanged (s.receive_handed frame)
  | _ => exact h

/-! ### The invariant of the part -/

/-- The FRU is lawful, and the raises on their way to it name factors of their source. -/
structure State.ReportUnitOk (s : State) : Prop where
  fru : s.fru.ReportOk
  handed : s.handed.SourcesOk

/-- The three invariants of the statement say that the FRU and what is on its way to it are lawful. -/
theorem State.reportUnitOk_iff (s : State) : s.FactorsOk ∧ s.SourcesOk ∧ s.StackOk ↔ s.ReportUnitOk := by
  constructor
  · rintro ⟨hfactors, ⟨hacquisition, hcondition⟩, hincreasing, htop, hbottom, hslot⟩
    exact ⟨⟨hfactors, hincreasing, htop, hbottom, hslot⟩, ⟨hacquisition, hcondition⟩⟩
  · rintro ⟨⟨hfactors, hincreasing, htop, hbottom, hslot⟩, ⟨hacquisition, hcondition⟩⟩
    exact ⟨hfactors, ⟨hacquisition, hcondition⟩, hincreasing, htop, hbottom, hslot⟩

/-- A row keeps the invariant. -/
theorem exec_reportUnitOk {i : Instr} {s t : State} (h : s.ReportUnitOk) (he : exec i s = .next t) :
    t.ReportUnitOk :=
  exec_keeps (Inv := State.ReportUnitOk)
    (assert := fun _ _ => ⟨Fru.reportOk_reset, Handed.sourcesOk_reset⟩)
    (release := fun _ h => ⟨h.fru, h.handed⟩)
    (event := fun i _ _ _ h => ⟨eventEffect_reportOk i h.fru, eventEffect_sourcesOk i h.handed⟩)
    (act := fun i f s rest hc _ _ h => by
      have hhanded : (commandAct f i (s.dequeued rest)).handed = s.handed := commandAct_handed hc _
      exact ⟨h.fru.commanded (commandAct_commanded f i (s.dequeued rest)), hhanded ▸ h.handed⟩)
    h he

end Sys2Proof.Machine

namespace Sys2Proof.Proofs

open Sys2Proof.Machine

/-- Settles O56: the invariant is one of the FRU and one of what is handed over, each kept by every event, every
command's act and a period. -/
theorem everyStepKeepsTheReportUnitOk : Obligations.EveryStepKeepsTheReportUnitOk := by
  unfold Obligations.EveryStepKeepsTheReportUnitOk
  intro s t hs hstep
  rw [State.reportUnitOk_iff] at hs ⊢
  exact step_keeps (Inv := State.ReportUnitOk) (queue := fun _ _ h => ⟨h.fru, h.handed⟩)
    (row := fun _ _ _ h he => exec_reportUnitOk h he)
    (period := fun s h => ⟨s.period_fru.symm ▸ h.fru, State.period_sourcesOk h.handed⟩) hs hstep

end Sys2Proof.Proofs
end

section
/-! The selection attempt (R99, R100, R104), and REPORT-GATE and RETURN at their turn (R97, R106 to R108). -/

namespace Sys2Proof.Machine

/-! ### The selection attempt (R99, R100, R104) -/

theorem exec_selectionAttempt {s : State} (hp : s.porst = .released) :
    exec .selectionAttempt s = .next s.attempt :=
  exec_event_released hp rfl nofun nofun

/-- With one of its four conditions failing an attempt changes nothing (R99). -/
theorem State.attempt_waits {s : State} (h : s.selectionOpen = false ∨ s.fru.chosen = none) : s.attempt = s := by
  unfold State.attempt
  split
  · rfl
  next f hf =>
    rcases h with h | h
    · rw [if_neg (by simp [h])]
    · rw [hf] at h
      cases h

/-- With its four conditions met an attempt selects the factor chosen (R99, R100). -/
theorem State.attempt_selects {s : State} {f : FactorNo} (ho : s.selectionOpen = true) (hf : s.fru.chosen = some f) :
    s.attempt = s.onFru (Fru.select f s.alr.freshness) := by
  simp only [State.attempt, hf, ho, if_true]

/-- A closed gate, a full slot or a D-link DOWN leaves the first three conditions unmet (R99). -/
theorem State.not_selectionOpen {s : State} (h : s.fru.gate = .closed ∨ s.fru.slot ≠ none ∨ s.dlt.link = .down) :
    s.selectionOpen = false := by
  rw [← Bool.not_eq_true, s.selectionOpen_iff]
  rintro ⟨hgate, hslot, hlink⟩
  rcases h with h | h | h
  · rw [hgate] at h
    cases h
  · exact h hslot
  · rw [hlink] at h
    cases h

/-- Bit k of a group's raised flags is the flag of its factor in place k (R104). -/
theorem Fru.groupRaised_getLsbD (fru : Fru) (g : GroupNo) (k : Fin 4) :
    (fru.groupRaised g).getLsbD k.val = fru.factors[factorOfGroup g k].raised := by
  refine (BitVec.getLsbD_ofBoolListLE ..).trans ?_
  match k with
  | 0 | 1 | 2 | 3 => rfl

/-! ### REPORT-GATE (R97, R178) -/

theorem Gate.ofByte_none {b : Byte} (h : 1 < b.toNat) : Gate.ofByte b = none := by
  unfold Gate.ofByte
  split
  next h0 => omega
  next h1 => omega
  next => rfl

theorem Gate.ofByte_some {b : Byte} (h : b.toNat ≤ 1) : Gate.ofByte b = some (if b = 0 then .closed else .opened) := by
  rcases Nat.le_one_iff_eq_zero_or_eq_one.mp h with h | h
  · obtain rfl : b = 0 := BitVec.eq_of_toNat_eq h
    rfl
  · obtain rfl : b = 1 := BitVec.eq_of_toNat_eq h
    rfl

theorem reportGate_bad (f : CommandFrame) {gate : Byte} (h : 1 < gate.toNat) (s : State) :
    reportGate f gate s = s.badArgument f := by
  simp only [reportGate, Gate.ofByte_none h]

theorem reportGate_done (f : CommandFrame) {gate : Byte} (h : gate.toNat ≤ 1) (s : State) :
    reportGate f gate s =
      (s.onFru fun fru => { fru with gate := if gate = 0 then .closed else .opened }).respond f .done
        [gate, byteOf s.fru.level, byteOf s.fru.depth] := by
  simp only [reportGate, Gate.ofByte_some h]

/-! ### RETURN: its arguments (R106, R180) -/

/-- The factor that a RETURN carries: its factor argument is read under bit 0 of the presence byte alone (R180). -/
def returnFactor (presence factor : Byte) : Option FactorNo :=
  if presence.getLsbD 0 then factorOf factor else none

section
variable {depth presence factor : Byte}

theorem returnFactor_absent (h : presence.getLsbD 0 = false) : returnFactor presence factor = none := by
  simp only [returnFactor, h, Bool.false_eq_true, if_false]

theorem returnFactor_named {x : FactorNo} (h : presence.getLsbD 0 = true) (hx : factor.toNat = x.val) :
    returnFactor presence factor = some x := by
  simp only [returnFactor, h, if_true, factorOf_some hx]

theorem returnLevel_bad (f : CommandFrame)
    (h : depth.toNat = 0 ∨ 4 < depth.toNat ∨ (presence.getLsbD 0 = true ∧ 31 < factor.toNat)) (s : State) :
    returnLevel f depth presence factor s = s.badArgument f := by
  unfold returnLevel
  split
  · rfl
  next hdepth =>
    obtain ⟨hnamed, hfactor⟩ : presence.getLsbD 0 = true ∧ 31 < factor.toNat := by
      rcases h with h | h | h
      · omega
      · omega
      · exact h
    simp only [hnamed, if_true, factorOf_none hfactor]

/-- Past the first two checks a RETURN is checked against the level stack and the slot (R106). -/
theorem returnLevel_checked (f : CommandFrame) (hmin : 1 ≤ depth.toNat) (hmax : depth.toNat ≤ 4)
    (hfactor : presence.getLsbD 0 = true → factor.toNat ≤ 31) (s : State) :
    returnLevel f depth presence factor s = returnChecked f depth.toNat (returnFactor presence factor) s := by
  have hdepth : ¬(depth.toNat < 1 ∨ 4 < depth.toNat) := by omega
  rw [returnLevel, if_neg hdepth]
  split
  next hnamed =>
    have hx : factor.toNat = (⟨factor.toNat, Nat.lt_succ_of_le (hfactor hnamed)⟩ : FactorNo).val := rfl
    simp only [returnFactor_named hnamed hx, factorOf_some hx]
  next hplain => rw [returnFactor_absent (by simpa using hplain)]

end

/-! ### RETURN: the last three checks, and an accepted one (R106 to R108) -/

section
variable {s : State} (f : CommandFrame) {depth : Nat} {c : Option FactorNo}

theorem returnChecked_notInService (h : s.fru.depth = 0) :
    returnChecked f depth c s = s.respond f .notInService [byteOf s.fru.depth, byteOf s.fru.level] :=
  if_pos h

theorem returnChecked_slotFull {r : Report} (hd : s.fru.depth ≠ 0) (hs : s.fru.slot = some r) :
    returnChecked f depth c s = s.respond f .staleReturn
      ([0, byteOf s.fru.depth, byteOf s.fru.level, 1] ++ halfBytes r.serial) := by
  rw [returnChecked, if_neg hd, hs]
  rfl

theorem returnChecked_depthMismatch (hd : s.fru.depth ≠ 0) (hs : s.fru.slot = none) (hdepth : depth ≠ s.fru.depth) :
    returnChecked f depth c s =
      s.respond f .staleReturn [1, byteOf s.fru.depth, byteOf s.fru.level, 0, 0, 0] := by
  rw [returnChecked, if_neg hd, hs]
  exact if_pos hdepth

theorem returnChecked_accepted (hd : s.fru.depth ≠ 0) (hs : s.fru.slot = none) (hdepth : depth = s.fru.depth) :
    returnChecked f depth c s = acceptReturn f c s := by
  rw [returnChecked, if_neg hd, hs]
  exact if_neg (not_not_intro hdepth)

/-- An accepted RETURN pops the top saved level after the clear of the factor it carries, and its DONE has the depth
and the level after the pop (R107). -/
theorem acceptReturn_eq {below : List Nat} {top : Nat} (h : s.fru.saved = below ++ [top]) :
    acceptReturn f c s =
      (s.onFru fun fru => { c.elim fru fru.clear with saved := below, level := top }).respond f .done
        ([byteOf below.length, byteOf top] ++ s.fru.clearedBytes c) := by
  have haccept : s.fru.accept c = { c.elim s.fru s.fru.clear with saved := below, level := top } := by
    cases c with
    | none => exact Fru.pop_saved h
    | some x => exact Fru.pop_saved (fru := s.fru.clear x) h
  simp only [acceptReturn, State.onFru, haccept, Fru.depth]

end

end Sys2Proof.Machine

namespace Sys2Proof.Proofs

open Sys2Proof.Machine

/-- Settles O23: by `Fru.chosen_eq_none` and `Fru.chosen_eq_some`, the report's raised flags bit by bit. -/
theorem attemptSelectsFirstCandidateOrNothing : Obligations.AttemptSelectsFirstCandidateOrNothing := by
  unfold Obligations.AttemptSelectsFirstCandidateOrNothing
  refine ⟨fun s hp hfails => ?_, fun s f g hp hgate hslot hlink hg hcandidate habove hfirst => ?_⟩
  · have hwaits : s.selectionOpen = false ∨ s.fru.chosen = none := by
      rcases hfails with h | h | h | h
      · exact .inl (State.not_selectionOpen (.inl h))
      · exact .inl (State.not_selectionOpen (.inr (.inl h)))
      · exact .inl (State.not_selectionOpen (.inr (.inr h)))
      · exact .inr (s.fru.chosen_eq_none.mpr h)
    rw [exec_selectionAttempt hp, State.attempt_waits hwaits]
  · obtain rfl : groupOfFactor f = g := Fin.ext hg.symm
    have hopen : s.selectionOpen = true := s.selectionOpen_iff.mpr ⟨hgate, hslot, hlink⟩
    have hchosen : s.fru.chosen = some f := s.fru.chosen_eq_some f hcandidate habove hfirst
    refine ⟨s.fru.groupRaised (groupOfFactor f), fun k h hk => ?_, ?_⟩
    · obtain rfl : factorOfGroup (groupOfFactor f) k = h := Fin.ext hk.symm
      exact s.fru.groupRaised_getLsbD _ k
    · rw [exec_selectionAttempt hp, State.attempt_selects hopen hchosen]
      rfl

/-- Settles O38: the argument checks, then the checks on the stack and the slot one by one, then the clear and the
pop of `acceptReturn_eq`. -/
theorem returnChecksThenPops : Obligations.ReturnChecksThenPops := by
  unfold Obligations.ReturnChecksThenPops
  intro s tag depth presence factor rest hx named d depthByte levelByte
  rw [exec_command_executes rfl rfl hx, commandAct]
  refine ⟨fun hbad => ?_, fun hmin hmax hfactor => ?_⟩
  · rw [returnLevel_bad _ hbad, State.badArgument_dequeued]
  rw [returnLevel_checked _ hmin hmax hfactor]
  refine ⟨fun hempty => ?_, fun r hd hs => ?_, fun hd hs hdepth => ?_, fun below top hsaved hs hdepth => ?_⟩
  · rw [returnChecked_notInService (s := s.dequeued rest) _ hempty]
    rfl
  · rw [returnChecked_slotFull (s := s.dequeued rest) _ hd hs]
    rfl
  · rw [returnChecked_depthMismatch (s := s.dequeued rest) _ hd hs hdepth]
    rfl
  · have hd : s.fru.saved.length ≠ 0 := by simp [hsaved]
    rw [returnChecked_accepted (s := s.dequeued rest) _ hd hs hdepth,
      acceptReturn_eq (s := s.dequeued rest) _ hsaved]
    refine ⟨fun hplain => ?_, fun x hnamed hx => ?_⟩
    · rw [returnFactor_absent hplain]
      rfl
    · have hbyte : byteOf x.val = factor := by rw [← hx, byteOf, BitVec.ofNat_toNat, BitVec.setWidth_eq]
      rw [returnFactor_named hnamed hx, Fru.clearedBytes, hbyte]
      rfl

/-- Settles O39: by the range of the gate argument. -/
theorem reportGateSetsTheGate : Obligations.ReportGateSetsTheGate := by
  unfold Obligations.ReportGateSetsTheGate
  intro s tag gate rest hx
  rw [exec_command_executes rfl rfl hx]
  refine ⟨fun hbad => ?_, fun hgate => ?_⟩
  · rw [commandAct, reportGate_bad _ hbad, State.badArgument_dequeued]
  · rw [commandAct, reportGate_done _ hgate]
    rfl

end Sys2Proof.Proofs
end

section
/-! The list invariant: the substitution list and the capture list as the spec has them between events, kept by every
update of the two lists and of the previous values and so by every step (R115, R116, R123, R128, R129). -/

namespace Sys2Proof.Machine

/-! ### The two lists and their invariant -/

/-- What the list invariant speaks of: the two lists, and the previous values that a pending HOLD will take. -/
structure Lists where
  substitutions : List SubstitutionEntry
  captures : List CaptureRecord
  previous : Vector (Option Half) 32

def Ce.lists (ce : Ce) : Lists := ⟨ce.substitutions, ce.captures, ce.live.map (·.previous)⟩

/-- The substitution list within R115, R116 and R123, the capture list within R128 and R129. -/
structure Lists.Ok (t : Lists) : Prop where
  substitutionRoom : t.substitutions.length ≤ 8
  channels : (t.substitutions.map (·.channel)).Nodup
  present : ∀ e ∈ t.substitutions, e.current ≠ none ∨ e.next ≠ none
  holds : ∀ e ∈ t.substitutions, e.next = some .hold → t.previous[e.channel] ≠ none
  captureRoom : t.captures.length ≤ 4
  tags : (t.captures.map (·.tag)).Nodup
  records : ∀ r ∈ t.captures, r.Ok

theorem Ce.lists_previous (ce : Ce) (c : Channel) : ce.lists.previous[c] = ce.live[c].previous := by
  simp [Ce.lists]

theorem State.listsOk_iff (s : State) : s.SubstitutionsOk ∧ s.CapturesOk ↔ s.ce.lists.Ok := by
  constructor
  · rintro ⟨⟨hroom, hchannels, hentries⟩, hcaptureRoom, htags, hrecords⟩
    refine ⟨hroom, hchannels, fun e he => (hentries e he).1, fun e he hhold => ?_, hcaptureRoom, htags, hrecords⟩
    rw [Ce.lists_previous]
    exact (hentries e he).2 hhold
  · intro h
    refine ⟨⟨h.substitutionRoom, h.channels, fun e he => ⟨h.present e he, fun hhold => ?_⟩⟩,
      h.captureRoom, h.tags, h.records⟩
    rw [← Ce.lists_previous]
    exact h.holds e he hhold

theorem Ce.lists_ok_reset : Ce.reset.lists.Ok :=
  ⟨by decide, by decide, nofun, nofun, by decide, by decide, nofun⟩

/-- A list thinned and changed in place, every element that stays with its key, has no key twice if it had none. -/
theorem nodup_map_filterMap {α β : Type} {l : List α} {g : α → Option α} {key : α → β}
    (hkey : ∀ x y, g x = some y → key y = key x) (h : (l.map key).Nodup) : ((l.filterMap g).map key).Nodup := by
  simp only [List.Nodup, List.pairwise_map, List.pairwise_filterMap] at h ⊢
  refine h.imp fun hne x' hx y' hy => ?_
  rwa [hkey _ _ hx, hkey _ _ hy]

/-! ### A substitution entry across a boundary (R122, R123) -/

/-- An entry that a boundary leaves in the list keeps its channel. -/
theorem SubstitutionEntry.applyNext_channel {live : Vector Live 32} {e e' : SubstitutionEntry}
    (h : e.applyNext live = some e') : e'.channel = e.channel := by
  unfold SubstitutionEntry.applyNext at h
  split at h
  · cases h; rfl
  · cases h; rfl
  · split at h <;> cases h <;> rfl
  · cases h

/-- An entry that a boundary leaves in the list has a substitution in force and no change waiting. -/
theorem SubstitutionEntry.applyNext_settled {live : Vector Live 32} {e e' : SubstitutionEntry}
    (hpresent : e.current ≠ none ∨ e.next ≠ none) (hhold : e.next = some .hold → live[e.channel].previous ≠ none)
    (h : e.applyNext live = some e') : e'.current ≠ none ∧ e'.next = none := by
  unfold SubstitutionEntry.applyNext at h
  split at h
  next hnext =>
    cases h
    exact ⟨hpresent.resolve_right fun hne => hne hnext, hnext⟩
  · cases h
    exact ⟨nofun, rfl⟩
  next hnext =>
    split at h
    next hnone => exact absurd hnone (hhold hnext)
    · cases h
      exact ⟨nofun, rfl⟩
  · cases h

/-! ### A capture record as a CAPTURE makes it, and across a boundary (R129, R132 to R135) -/

/-- A record is incomplete while a channel of its set has no slot (R135). -/
theorem CaptureRecord.not_complete_iff (r : CaptureRecord) :
    r.complete = false ↔ ¬∀ c : Channel, r.names c → r.slots[c] ≠ none := by
  rw [← r.complete_iff, Bool.not_eq_true]

theorem CaptureRecord.ok_collecting_iff {r : CaptureRecord} {remaining : Nat} (h : r.phase = .collecting remaining) :
    r.Ok ↔ 1 ≤ r.limit ∧ r.limit ≤ 64 ∧ r.complete = false ∧ 1 ≤ remaining ∧ remaining < r.limit := by
  simp only [CaptureRecord.Ok, h]

/-- A set that is not empty has a channel. -/
theorem exists_channel_of_ne_zero {set : Word} (h : set ≠ 0) : ∃ c : Channel, set.getLsbD c.val = true := by
  by_contra hnone
  simp only [not_exists, Bool.not_eq_true] at hnone
  refine h (BitVec.eq_of_getLsbD_eq fun i hi => ?_)
  rw [hnone ⟨i, hi⟩]
  exact BitVec.getLsbD_zero.symm

/-- A new record waits with every slot empty (R132). -/
theorem CaptureRecord.accepted_ok (tag : Byte) {set : Word} {limit : Nat} (hset : set ≠ 0) (hmin : 1 ≤ limit)
    (hmax : limit ≤ 64) : (CaptureRecord.accepted tag set limit).Ok := by
  have hempty (c : Channel) : (CaptureRecord.accepted tag set limit).slots[c] = none := Vector.getElem_replicate c.isLt
  refine ⟨hmin, hmax, ?_, hempty⟩
  rw [CaptureRecord.not_complete_iff]
  obtain ⟨c, hc⟩ := exists_channel_of_ne_zero hset
  exact fun hall => hall c hc (hempty c)

/-- A boundary finds a record with 1 frame to its limit left (R129, R133). -/
theorem CaptureRecord.Ok.left_mem {r : CaptureRecord} (h : r.Ok) : 1 ≤ r.left ∧ r.left ≤ r.limit := by
  obtain ⟨hmin, -, -, hphase⟩ := h
  unfold CaptureRecord.left
  cases hp : r.phase with
  | waiting => exact ⟨hmin, le_rfl⟩
  | collecting remaining =>
    rw [hp] at hphase
    exact ⟨hphase.1, hphase.2.le⟩

/-- A record that stays in the list at a boundary: incomplete, with its frames remaining counted down (R135). -/
theorem CaptureRecord.atBoundary_stays {list : List SubstitutionEntry} {f : Frame} {r r' : CaptureRecord}
    (h : r.atBoundary list f = .inl r') :
    r'.tag = r.tag ∧ r'.limit = r.limit ∧ r'.complete = false ∧ 2 ≤ r.left ∧ r'.phase = .collecting (r.left - 1) := by
  rw [← CaptureRecord.countdown_collect_start, CaptureRecord.start_eq, CaptureRecord.collect_collecting rfl,
    CaptureRecord.countdown_collecting rfl] at h
  split at h
  · cases h
  next hincomplete =>
    split at h
    · cases h
    next hleft =>
      cases h
      exact ⟨rfl, rfl, (CaptureRecord.not_complete_iff _).mpr hincomplete, by omega, rfl⟩

/-- A record that stays in the list at a boundary is as R129 has it. -/
theorem CaptureRecord.Ok.atBoundary {list : List SubstitutionEntry} {f : Frame} {r r' : CaptureRecord} (h : r.Ok)
    (hstays : r.atBoundary list f = .inl r') : r'.Ok := by
  obtain ⟨-, hlimit, hincomplete, hleft, hphase⟩ := CaptureRecord.atBoundary_stays hstays
  obtain ⟨-, hle⟩ := h.left_mem
  obtain ⟨hmin, hmax, -⟩ := h
  rw [CaptureRecord.ok_collecting_iff hphase, hlimit]
  exact ⟨hmin, hmax, hincomplete, by omega, by omega⟩

/-! ### What keeps it: one rule per update of the lists -/

section
variable {t : Lists} (h : t.Ok)
include h

/-- An entry appended for a channel that has none (R118). -/
theorem Lists.Ok.appended {c : Channel} {change : Change} (hroom : t.substitutions.length < 8)
    (hnew : ∀ e ∈ t.substitutions, e.channel ≠ c) (hhold : change = .hold → t.previous[c] ≠ none) :
    Lists.Ok { t with substitutions := t.substitutions ++ [⟨c, none, some change⟩] } where
  substitutionRoom := by simp only [List.length_append, List.length_singleton]; omega
  channels := by
    rw [List.map_append, List.nodup_append]
    refine ⟨h.channels, List.nodup_singleton _, fun a ha b hb => ?_⟩
    obtain ⟨e, he, rfl⟩ := List.mem_map.mp ha
    rw [List.mem_singleton.mp hb]
    exact hnew e he
  present e he := by
    rcases List.mem_append.mp he with he | he
    · exact h.present e he
    · rw [List.mem_singleton.mp he]
      exact .inr nofun
  holds e he hnext := by
    rcases List.mem_append.mp he with he | he
    · exact h.holds e he hnext
    · rw [List.mem_singleton.mp he] at hnext ⊢
      exact hhold (Option.some.inj hnext)
  captureRoom := h.captureRoom
  tags := h.tags
  records := h.records

/-- The next change of a channel's entry replaced (R119, R120). -/
theorem Lists.Ok.changed {c : Channel} {change : Change} (hhold : change = .hold → t.previous[c] ≠ none) :
    Lists.Ok { t with substitutions := t.substitutions.map fun e =>
      if e.channel == c then { e with next := some change } else e } where
  substitutionRoom := by rw [List.length_map]; exact h.substitutionRoom
  channels := by
    rw [List.map_map, List.map_congr_left (g := (·.channel)) fun e _ => by dsimp only [Function.comp]; split <;> rfl]
    exact h.channels
  present e' he' := by
    obtain ⟨e, he, rfl⟩ := List.mem_map.mp he'
    split
    · exact .inr nofun
    · exact h.present e he
  holds e' he' := by
    obtain ⟨e, he, rfl⟩ := List.mem_map.mp he'
    split
    next hc =>
      rw [beq_iff_eq] at hc
      exact fun hnext => hc ▸ hhold (Option.some.inj hnext)
    · exact h.holds e he
  captureRoom := h.captureRoom
  tags := h.tags
  records := h.records

/-- A record appended under a tag that no record has (R131, R132). -/
theorem Lists.Ok.requested {r : CaptureRecord} (hroom : t.captures.length < 4)
    (hnew : ∀ x ∈ t.captures, x.tag ≠ r.tag) (hr : r.Ok) : Lists.Ok { t with captures := t.captures ++ [r] } where
  substitutionRoom := h.substitutionRoom
  channels := h.channels
  present := h.present
  holds := h.holds
  captureRoom := by simp only [List.length_append, List.length_singleton]; omega
  tags := by
    rw [List.map_append, List.nodup_append]
    refine ⟨h.tags, List.nodup_singleton _, fun a ha b hb => ?_⟩
    obtain ⟨x, hx, rfl⟩ := List.mem_map.mp ha
    rw [List.mem_singleton.mp hb]
    exact hnew x hx
  records x hx := by
    rcases List.mem_append.mp hx with hx | hx
    · exact h.records x hx
    · rw [List.mem_singleton.mp hx]
      exact hr

/-- Records taken out of the capture list (R138, R140, R141). -/
theorem Lists.Ok.ended {captures : List CaptureRecord} (hsub : captures.Sublist t.captures) :
    Lists.Ok { t with captures := captures } where
  substitutionRoom := h.substitutionRoom
  channels := h.channels
  present := h.present
  holds := h.holds
  captureRoom := hsub.length_le.trans h.captureRoom
  tags := h.tags.sublist (hsub.map _)
  records r hr := h.records r (hsub.subset hr)

/-- A boundary: every next change applied, so that no HOLD waits, whatever the frame makes of the previous values; the
records that stay counted down (R122, R123, R133 to R135). -/
theorem Lists.Ok.bounded {live : Vector Live 32} (hlive : ∀ c : Channel, live[c].previous = t.previous[c])
    (list : List SubstitutionEntry) (f : Frame) (previous : Vector (Option Half) 32) :
    Lists.Ok ⟨t.substitutions.filterMap (SubstitutionEntry.applyNext live),
      (t.captures.map (CaptureRecord.atBoundary list f)).filterMap Sum.getLeft?, previous⟩ := by
  have hsettled (e') (he' : e' ∈ t.substitutions.filterMap (SubstitutionEntry.applyNext live)) :
      e'.current ≠ none ∧ e'.next = none := by
    obtain ⟨e, he, happly⟩ := List.mem_filterMap.mp he'
    exact SubstitutionEntry.applyNext_settled (h.present e he) (fun hnext => hlive _ ▸ h.holds e he hnext) happly
  rw [List.filterMap_map]
  exact {
    substitutionRoom := (List.length_filterMap_le _ _).trans h.substitutionRoom
    channels := nodup_map_filterMap (fun _ _ => SubstitutionEntry.applyNext_channel) h.channels
    present := fun e he => .inl (hsettled e he).1
    holds := fun e he hnext => by rw [(hsettled e he).2] at hnext; cases hnext
    captureRoom := (List.length_filterMap_le _ _).trans h.captureRoom
    tags := nodup_map_filterMap
      (fun _ _ hstays => (CaptureRecord.atBoundary_stays (Sum.getLeft?_eq_some_iff.mp hstays)).1) h.tags
    records := fun r' hr' => by
      obtain ⟨r, hr, hstays⟩ := List.mem_filterMap.mp hr'
      exact (h.records r hr).atBoundary (Sum.getLeft?_eq_some_iff.mp hstays) }

end

/-! ### The events that change the lists -/

/-- An application keeps both lists and every previous value (R67). -/
theorem Ce.applyCommit_lists (ce : Ce) : ce.applyCommit.lists = ce.lists := by
  have hprevious (c : Channel) : ce.applyCommit.live[c].previous = ce.live[c].previous := by
    rw [Ce.applyCommit_live]
    split <;> rfl
  have hall : ce.applyCommit.live.map (·.previous) = ce.live.map (·.previous) := Vector.ext fun i hi => by
    rw [Vector.getElem_map, Vector.getElem_map]
    exact hprevious ⟨i, hi⟩
  exact congrArg (Lists.mk ce.substitutions ce.captures) hall

theorem Ce.committed_lists (ce : Ce) : ce.committed.lists = ce.lists := by
  unfold Ce.committed
  split
  · rfl
  · exact ce.applyCommit_lists

/-- A frame boundary keeps the list invariant. -/
theorem State.boundary_listsOk {s : State} (hp : s.porst = .released) (h : s.ce.lists.Ok) : s.boundary.ce.lists.Ok := by
  rcases s.boundary_cases with e | ⟨f, rest, hq, hfree, -⟩
  · rwa [e]
  · obtain ⟨_, _, _, hexec, -⟩ := exec_frameBoundary_eq hp hq (s.ceFree_iff.mp hfree)
    rw [exec_frameBoundary hp] at hexec
    rw [Host.Outcome.next.inj hexec, ← Ce.committed_captures]
    rw [← Ce.committed_lists] at h
    exact h.bounded (fun c => (Ce.lists_previous _ c).symm) _ f _

/-- A declaration handled by the CE ends every capture (R138). -/
theorem State.takeDeclaration_listsOk {s : State} (h : s.ce.lists.Ok) : s.takeDeclaration.ce.lists.Ok := by
  unfold State.takeDeclaration
  split
  · exact h
  · rw [State.applyPending_eq]
    rw [← Ce.committed_lists] at h
    exact h.ended (List.nil_sublist _)

/-- Every event keeps the list invariant. -/
theorem eventEffect_listsOk (i : Instr) {s : State} (hp : s.porst = .released) (h : s.ce.lists.Ok) :
    (eventEffect i s).ce.lists.Ok := by
  have unchanged {t : State} (e : t.ce = s.ce) : t.ce.lists.Ok := e ▸ h
  cases i with
  | frameBoundary => exact State.boundary_listsOk hp h
  | declarationHandedToCe => exact State.takeDeclaration_listsOk h
  | linkDown => exact h.ended (List.nil_sublist _)
  | lockLost => exact unchanged s.loseLock_ce
  | arrival frame => exact unchanged (s.arrive_ce frame)
  | staleTimerExpiry => exact unchanged s.expire_ce
  | factorRaise source => exact unchanged (s.takeRaise_ce source)
  | selectionAttempt => exact unchanged s.attempt_ce
  | commandFrame frame | creditFrame frame => exact unchanged (s.receive_ce frame)
  | transmissionStart => exact unchanged s.start_ce
  | _ => exact h

/-! ### The commands: SUBSTITUTE, CAPTURE and CANCEL-CAPTURE alone change the lists -/

theorem Ce.listed_eq_false_iff (ce : Ce) (c : Channel) :
    ce.listed c = false ↔ ∀ e ∈ ce.substitutions, e.channel ≠ c := by
  simp [Ce.listed]

theorem Form.change_eq_hold_iff {form : Form} {value : Half} : form.change value = .hold ↔ form = .hold := by
  cases form <;> simp [Form.change]

theorem substituteChecked_listsOk (f : CommandFrame) (c : Channel) (form : Form) (value : Half) {s : State}
    (h : s.ce.lists.Ok) : (substituteChecked f c form value s).ce.lists.Ok := by
  unfold substituteChecked
  dsimp only
  split
  · split
    · exact h.changed nofun
    · exact h
  all_goals
    split
    · exact h
    next hvalue =>
      have hhold : Form.change _ value = .hold → s.ce.lists.previous[c] ≠ none := fun hchange hnone =>
        hvalue ⟨Form.change_eq_hold_iff.mp hchange, by rwa [Ce.lists_previous] at hnone⟩
      split
      · exact h.changed hhold
      next hnew =>
        split
        next hroom => exact h.appended hroom ((s.ce.listed_eq_false_iff c).mp (Bool.eq_false_iff.mpr hnew)) hhold
        · exact h

theorem capture_listsOk (f : CommandFrame) (set : Word) (limit : Byte) {s : State} (h : s.ce.lists.Ok) :
    (capture f set limit s).ce.lists.Ok := by
  unfold capture
  split
  · exact h
  next hset =>
    split
    · exact h
    next hlimit =>
      split
      · exact h
      next hfree =>
        split
        next hroom =>
          have hnew : ∀ r ∈ s.ce.captures, r.tag ≠ f.tag := by simpa using hfree
          exact h.requested hroom hnew (CaptureRecord.accepted_ok f.tag hset (by omega) (by omega))
        · exact h

theorem cancelCapture_listsOk (f : CommandFrame) (captureTag : Byte) {s : State} (h : s.ce.lists.Ok) :
    (cancelCapture f captureTag s).ce.lists.Ok := by
  unfold cancelCapture
  split
  · exact h
  · exact h.ended (List.eraseP_sublist)

theorem commitBanks_lists (f : CommandFrame) (s : State) : (commitBanks f s).ce.lists = s.ce.lists := by
  unfold commitBanks
  split
  · rfl
  split
  · rfl
  · exact s.ce.applyCommit_lists

/-- The commands on other tables leave the lists and the previous values as they are. -/
theorem commandAct_lists (f : CommandFrame) {i : Instr}
    (hs : ∀ tag channel form value, i ≠ .substitute tag channel form value)
    (hr : ∀ tag channels limit, i ≠ .capture tag channels limit)
    (hc : ∀ tag captureTag, i ≠ .cancelCapture tag captureTag) (s : State) :
    (commandAct f i s).ce.lists = s.ce.lists := by
  cases i with
  | substitute tag channel form value => exact absurd rfl (hs tag channel form value)
  | capture tag channels limit => exact absurd rfl (hr tag channels limit)
  | cancelCapture tag captureTag => exact absurd rfl (hc tag captureTag)
  | commit tag => exact commitBanks_lists f s
  | readEntry | loadShadow | setGroup | readGroup | clearFactors | reportGate | setLink | readStatus =>
    simp only [commandAct, readEntry, loadShadow, setGroup, readGroup, clearFactors, reportGate, setLink, readStatus]
    split <;> rfl
  | writeEntry tag channel args =>
    simp only [commandAct, writeEntry]
    split
    · rfl
    split
    · rfl
    split <;> rfl
  | returnLevel tag depth presence factor =>
    simp only [commandAct, returnLevel]
    split
    · rfl
    split
    · split
      · rfl
      · rw [returnChecked_ce]
    · rw [returnChecked_ce]
  | _ => rfl

/-- Every command's act keeps the list invariant. -/
theorem commandAct_listsOk (f : CommandFrame) (i : Instr) {s : State} (h : s.ce.lists.Ok) :
    (commandAct f i s).ce.lists.Ok := by
  have unchanged {t : State} (e : t.ce.lists = s.ce.lists) : t.ce.lists.Ok := e ▸ h
  cases i with
  | substitute tag channel form value =>
    simp only [commandAct, substitute]
    split
    · exact substituteChecked_listsOk f _ _ value h
    · exact h
  | capture tag channels limit => exact capture_listsOk f channels limit h
  | cancelCapture tag captureTag => exact cancelCapture_listsOk f captureTag h
  | _ => exact unchanged (commandAct_lists f (by simp) (by simp) (by simp) s)

end Sys2Proof.Machine

namespace Sys2Proof.Proofs

open Sys2Proof.Machine

/-- Settles O54: the invariant is one of the two lists and the previous values, kept by every event, every command's act
and a period. -/
theorem everyStepKeepsTheListsOk : Obligations.EveryStepKeepsTheListsOk := by
  unfold Obligations.EveryStepKeepsTheListsOk
  intro s t hs hstep
  rw [State.listsOk_iff] at hs ⊢
  exact step_keeps (Inv := fun s => s.ce.lists.Ok) (fun _ _ h => h)
    (fun _ _ _ h => exec_keeps (Inv := fun s => s.ce.lists.Ok) (fun _ _ => Ce.lists_ok_reset) (fun _ h => h)
      (fun i _ _ hp h => eventEffect_listsOk i hp h) (fun i f _ _ _ _ _ h => commandAct_listsOk f i h) h)
    (fun s h => s.period_ce.symm ▸ h) hs hstep

end Sys2Proof.Proofs
end

section
/-! SUBSTITUTE and READ_SUBSTITUTIONS at their turn: the four checks of a SUBSTITUTE, what it makes of the list, and the
items of the list as they are answered (R117 to R121, R127, R181). -/

namespace Sys2Proof.Machine

/-! ### The arguments of SUBSTITUTE (R117, R178) -/

theorem Form.ofByte_none {b : Byte} (h : 2 < b.toNat) : Form.ofByte b = none := by
  unfold Form.ofByte
  split
  next h0 => omega
  next h1 => omega
  next h2 => omega
  next => rfl

theorem substitute_bad (f : CommandFrame) {channel form : Byte} (h : 31 < channel.toNat ∨ 2 < form.toNat) (value : Half)
    (s : State) : substitute f channel form value s = s.badArgument f := by
  unfold substitute
  rcases h with h | h
  · rw [channelOf_none h]
  · rw [Form.ofByte_none h]
    cases channelOf channel <;> rfl

/-- SUBSTITUTE with both arguments in range. -/
theorem substitute_checked (f : CommandFrame) {channel form : Byte} {c : Channel} {fm : Form}
    (hc : channel.toNat = c.val) (hform : Form.ofByte form = some fm) (value : Half) (s : State) :
    substitute f channel form value s = substituteChecked f c fm value s := by
  simp only [substitute, channelOf_some hc, hform]

/-! ### The list of a channel without an entry and of one with an entry (R118 to R120) -/

section
variable {list below above : List SubstitutionEntry} {e : SubstitutionEntry} {c : Channel}

theorem find?_unlisted (h : ∀ x ∈ list, x.channel ≠ c) : list.find? (fun x => x.channel == c) = none := by
  simpa using h

/-- The entry that stands first for a channel is the one found. -/
theorem find?_listed (hbelow : ∀ x ∈ below, x.channel ≠ c) (he : e.channel = c) :
    (below ++ e :: above).find? (fun x => x.channel == c) = some e := by
  rw [List.find?_append, find?_unlisted hbelow, Option.none_or, List.find?_cons_of_pos (by simpa using he)]

/-- The one entry of a channel takes its next change in its place (R119). -/
theorem Ce.setNext_listed {ce : Ce} (hlist : ce.substitutions = below ++ e :: above) (he : e.channel = c)
    (hbelow : ∀ x ∈ below, x.channel ≠ c) (habove : ∀ x ∈ above, x.channel ≠ c) (change : Change) :
    ce.setNext c change = { ce with substitutions := below ++ { e with next := some change } :: above } := by
  have others {l : List SubstitutionEntry} (h : ∀ x ∈ l, x.channel ≠ c) :
      l.map (fun x => if x.channel == c then { x with next := some change } else x) = l :=
    (List.map_congr_left fun x hx => if_neg (by simpa using h x hx)).trans l.map_id
  simp only [Ce.setNext, hlist, List.map_append, List.map_cons, others hbelow, others habove, he, beq_self_eq_true,
    if_true]

theorem Ce.listed_of_mem {ce : Ce} (hlist : ce.substitutions = below ++ e :: above) (he : e.channel = c) :
    ce.listed c = true := by
  simp [Ce.listed, hlist, he]

end

/-- A channel argument in range is the byte of its channel. -/
theorem byteOf_channel {channel : Byte} {c : Channel} (h : channel.toNat = c.val) : byteOf c.val = channel := by
  rw [← h, byteOf, BitVec.ofNat_toNat, BitVec.setWidth_eq]

/-! ### The outcomes of SUBSTITUTE (R117 to R121) -/

/-- DONE from the list as the execution leaves it, with the entry found in it for the channel (R121). -/
theorem substituteDone_dequeued (f : CommandFrame) {c : Channel} {entry : Option SubstitutionEntry} {s : State}
    (hentry : s.ce.substitutions.find? (fun e => e.channel == c) = entry) (outcome : SubstituteOutcome)
    (rest : List CommandFrame) :
    substituteDone f c outcome (s.dequeued rest) = s.answered rest ⟨f.tag, f.code, .done,
      f.arguments ++ [outcome.byte] ++ entryItem entry ++ [byteOf s.ce.substitutions.length]⟩ := by
  subst hentry
  rfl

/-- DONE after the one entry of the channel has taken a next change in its place (R119 to R121). -/
theorem substituteDone_setNext (f : CommandFrame) {c : Channel} {s : State} {below above : List SubstitutionEntry}
    {e : SubstitutionEntry} (hlist : s.ce.substitutions = below ++ e :: above) (he : e.channel = c)
    (hbelow : ∀ x ∈ below, x.channel ≠ c) (habove : ∀ x ∈ above, x.channel ≠ c) (change : Change)
    (outcome : SubstituteOutcome) (rest : List CommandFrame) :
    let after := below ++ { e with next := some change } :: above
    substituteDone f c outcome ((s.dequeued rest).onCe (Ce.setNext c change)) =
      ({ s with ce := { s.ce with substitutions := after } } : State).answered rest ⟨f.tag, f.code, .done,
        f.arguments ++ [outcome.byte] ++ entryItem (some { e with next := some change }) ++ [byteOf after.length]⟩ := by
  intro after
  have hstate : (s.dequeued rest).onCe (Ce.setNext c change) =
      ({ s with ce := { s.ce with substitutions := after } } : State).dequeued rest := by
    rw [State.onCe, State.dequeued, Ce.setNext_listed hlist he hbelow habove]
    rfl
  rw [hstate]
  exact substituteDone_dequeued f (find?_listed (e := { e with next := some change }) hbelow he) outcome rest

/-- DONE after an entry has been appended for a channel that had none (R118, R121). -/
theorem substituteDone_append (f : CommandFrame) {c : Channel} {s : State}
    (hunlisted : ∀ x ∈ s.ce.substitutions, x.channel ≠ c) (change : Change) (rest : List CommandFrame) :
    let after := s.ce.substitutions ++ [⟨c, none, some change⟩]
    substituteDone f c .appended ((s.dequeued rest).onCe (Ce.appendSubstitution c change)) =
      ({ s with ce := { s.ce with substitutions := after } } : State).answered rest ⟨f.tag, f.code, .done,
        f.arguments ++ [0] ++ entryItem (some ⟨c, none, some change⟩) ++ [byteOf after.length]⟩ := by
  intro after
  exact substituteDone_dequeued f (s := { s with ce := { s.ce with substitutions := after } })
    (find?_listed hunlisted rfl) .appended rest

section
variable (f : CommandFrame) {c : Channel} {form : Form} {value : Half} {s : State}

/-- Check 3: a HOLD without a previous value (R117). -/
theorem substituteChecked_noValue (hnone : (s.ce.live[c]).previous = none) :
    substituteChecked f c .hold value s = s.respond f .noValue [byteOf c.val] := by
  simp only [substituteChecked, hnone, and_self, if_true]

/-- RELEASE of a channel with an entry (R120). -/
theorem substituteChecked_removes (h : s.ce.listed c = true) :
    substituteChecked f c .release value s = substituteDone f c .removeSet (s.onCe (Ce.setNext c .remove)) := by
  simp only [substituteChecked, h, if_true]
  rfl

/-- RELEASE of a channel without an entry (R120). -/
theorem substituteChecked_notListed (h : s.ce.listed c = false) :
    substituteChecked f c .release value s = substituteDone f c .notListed s := by
  simp [substituteChecked, h]

variable (hform : form ≠ .release) (hvalue : form = .hold → (s.ce.live[c]).previous ≠ none)
include hform hvalue

/-- FORCE, or HOLD with a previous value, passes check 3. -/
theorem substituteChecked_valued :
    substituteChecked f c form value s =
      if s.ce.listed c then substituteDone f c .changeSet (s.onCe (Ce.setNext c (form.change value)))
      else if s.ce.substitutions.length < 8 then
        substituteDone f c .appended (s.onCe (Ce.appendSubstitution c (form.change value)))
      else s.respond f .listFull [byteOf c.val, byteOf s.ce.substitutions.length, byteOf s.ce.removing] := by
  have hcheck : ¬(form = .hold ∧ (s.ce.live[c]).previous = none) := fun ⟨hhold, hnone⟩ => hvalue hhold hnone
  cases form with
  | release => exact absurd rfl hform
  | force | hold =>
    unfold substituteChecked
    exact if_neg hcheck

/-- A listed channel's entry takes the change (R119). -/
theorem substituteChecked_changes (hlisted : s.ce.listed c = true) :
    substituteChecked f c form value s =
      substituteDone f c .changeSet (s.onCe (Ce.setNext c (form.change value))) := by
  rw [substituteChecked_valued f hform hvalue, if_pos hlisted]

/-- A channel that is not listed takes an entry while the list has room (R118). -/
theorem substituteChecked_appends (hlisted : s.ce.listed c = false) (hroom : s.ce.substitutions.length ≤ 7) :
    substituteChecked f c form value s =
      substituteDone f c .appended (s.onCe (Ce.appendSubstitution c (form.change value))) := by
  rw [substituteChecked_valued f hform hvalue, hlisted, if_neg Bool.false_ne_true, if_pos (by omega)]

/-- Check 4: no room for a channel that is not listed (R117). -/
theorem substituteChecked_full (hlisted : s.ce.listed c = false) (hfull : 8 ≤ s.ce.substitutions.length) :
    substituteChecked f c form value s =
      s.respond f .listFull [byteOf c.val, byteOf s.ce.substitutions.length, byteOf s.ce.removing] := by
  rw [substituteChecked_valued f hform hvalue, hlisted, if_neg Bool.false_ne_true, if_neg (by omega)]

end

end Sys2Proof.Machine

namespace Sys2Proof.Proofs

open Sys2Proof.Machine

/-- Settles O40: by the form, then by the list: a change of FORCE or HOLD, and the removal of RELEASE, each by whether
the channel has an entry. -/
theorem substituteChecksThenSetsTheChange : Obligations.SubstituteChecksThenSetsTheChange := by
  unfold Obligations.SubstituteChecksThenSetsTheChange
  intro s tag channel form value rest hx list arguments run item done
  have hrun : run = .next (substitute ⟨tag, 10, arguments⟩ channel form value (s.dequeued rest)) :=
    exec_command_executes rfl rfl hx
  refine ⟨fun hbad => ?_, fun c hc => ⟨?_, fun change hchange => ?_, ?_⟩⟩
  · rw [hrun, substitute_bad _ hbad, State.badArgument_dequeued]
  · rintro rfl hnone
    rw [hrun, substitute_checked _ hc (fm := .hold) rfl, substituteChecked_noValue (s := s.dequeued rest) _ hnone,
      byteOf_channel hc, State.respond_dequeued]
  · obtain ⟨fm, hfm, hform, hvalue, rfl⟩ : ∃ fm, Form.ofByte form = some fm ∧ fm ≠ .release ∧
        (fm = .hold → (s.ce.live[c]).previous ≠ none) ∧ fm.change value = change := by
      rcases hchange with ⟨rfl, rfl⟩ | ⟨rfl, rfl, hsome⟩
      · exact ⟨.force, rfl, nofun, nofun, rfl⟩
      · exact ⟨.hold, rfl, nofun, fun _ => hsome, rfl⟩
    rw [substitute_checked _ hc hfm] at hrun
    refine ⟨fun hunlisted => ⟨fun hfull => ?_, fun hroom => ?_⟩, fun below e above hlist he hbelow habove => ?_⟩
    · have hlisted : s.ce.listed c = false := (s.ce.listed_eq_false_iff c).mpr hunlisted
      rw [hrun, substituteChecked_full (s := s.dequeued rest) _ hform hvalue hlisted hfull, byteOf_channel hc,
        State.respond_dequeued, Ce.removing, List.countP_eq_length_filter]
      rfl
    · have hlisted : s.ce.listed c = false := (s.ce.listed_eq_false_iff c).mpr hunlisted
      rw [substituteChecked_appends (s := s.dequeued rest) _ hform hvalue hlisted hroom,
        substituteDone_append _ hunlisted] at hrun
      exact hrun
    · have hlisted : s.ce.listed c = true := Ce.listed_of_mem hlist he
      rw [substituteChecked_changes (s := s.dequeued rest) _ hform hvalue hlisted,
        substituteDone_setNext _ hlist he hbelow habove] at hrun
      exact hrun
  · rintro rfl
    rw [substitute_checked _ hc (fm := .release) rfl] at hrun
    refine ⟨fun hunlisted => ?_, fun below e above hlist he hbelow habove => ?_⟩
    · have hlisted : s.ce.listed c = false := (s.ce.listed_eq_false_iff c).mpr hunlisted
      rw [substituteChecked_notListed (s := s.dequeued rest) _ hlisted,
        substituteDone_dequeued _ (find?_unlisted hunlisted)] at hrun
      exact hrun
    · have hlisted : s.ce.listed c = true := Ce.listed_of_mem hlist he
      rw [substituteChecked_removes (s := s.dequeued rest) _ hlisted,
        substituteDone_setNext _ hlist he hbelow habove] at hrun
      exact hrun

/-- Settles O41: at its turn the row is `readSubstitutions`, whose items have the layout of `SubstitutionEntry.bytes`. -/
theorem readSubstitutionsListsEveryEntry : Obligations.ReadSubstitutionsListsEveryEntry := by
  unfold Obligations.ReadSubstitutionsListsEveryEntry
  intro s tag rest hx
  rw [exec_command_executes rfl rfl hx, commandAct, readSubstitutions, State.respond_dequeued]
  rfl

end Sys2Proof.Proofs
end

section
/-! The queue invariant: credits, forward queue and command queue within their capacities, and the response queue's
entries and reservations within theirs with every reservation held by an operation; kept by every event and every
command's act and so by every step (R130, R144, R149, R154 to R156, R160). -/

namespace Sys2Proof.Machine

/-! ### How full the queues are -/

/-- What the queue invariant speaks of: credits, the lengths of the three queues, the reservations of the response queue,
those that operations hold, and the length of the capture list. -/
structure Fill where
  credits : Nat
  forward : Nat
  commands : Nat
  entries : Nat
  reservations : Nat
  claims : Nat
  captures : Nat

def Fill.of (d : Dlt) (ce : Ce) (m : Mx) : Fill where
  credits := d.credits
  forward := d.forwardQueue.length
  commands := m.queue.length
  entries := d.responses.length
  reservations := d.reservations
  claims := ce.claims
  captures := ce.captures.length

def State.fill (s : State) : Fill := Fill.of s.dlt s.ce s.mx

/-- The capacities of R130, R149, R154, R155 and R160, and every reservation held by an operation (R155). -/
structure Fill.Ok (a : Fill) : Prop where
  credits : a.credits ≤ 63
  forward : a.forward ≤ 8
  commands : a.commands ≤ 4
  room : a.entries + a.reservations ≤ 6
  held : a.reservations = a.claims
  captures : a.captures ≤ 4

theorem State.fillOk_iff (s : State) : s.QueuesOk ∧ s.ResponsesOk ↔ s.fill.Ok := by
  constructor
  · rintro ⟨⟨hcredits, hforward, hcommands⟩, hroom, hheld, hcaptures⟩
    exact ⟨hcredits, hforward, hcommands, hroom, hheld, hcaptures⟩
  · intro h
    exact ⟨⟨h.credits, h.forward, h.commands⟩, h.room, h.held, h.captures⟩

theorem Fill.ok_empty : Fill.Ok ⟨0, 0, 0, 0, 0, 0, 0⟩ := by constructor <;> simp

/-! ### The reservations that operations hold (R155) -/

theorem Ce.claims_congr {ce ce' : Ce} (hcaptures : ce'.captures = ce.captures) (hcommit : ce'.commit = ce.commit) :
    ce'.claims = ce.claims := by
  rw [Ce.claims, hcaptures, hcommit, Ce.claims]

/-- The pending commit holds one reservation for each response that its application gives: one, or none when it is
suppressed (R70, R155). -/
theorem Ce.claims_eq (occasion : Occasion) (first : Option Byte) (ce : Ce) :
    ce.claims = ce.captures.length + (ce.commitDone occasion first).length := by
  unfold Ce.claims Ce.commitDone
  match ce.commit with
  | none | some ⟨_, true⟩ | some ⟨_, false⟩ => rfl

theorem Ce.claims_of_none {ce : Ce} (h : ce.commit = none) : ce.claims = ce.captures.length := by
  simp only [Ce.claims, h, Nat.add_zero]

/-- A link reset leaves no operation with a reservation: no capture, and a pending commit suppressed (R72, R141). -/
theorem Ce.claims_dropLink (flushed : Nat) (ce : Ce) : (ce.dropLink flushed).claims = 0 := by
  unfold Ce.claims Ce.dropLink
  match ce.commit with
  | none | some _ => rfl

/-- A cancelled record gives up its reservation (R140). -/
theorem Ce.claims_eraseP {ce : Ce} {r : CaptureRecord} (h : r ∈ ce.captures) :
    let left := ce.captures.eraseP fun x => x.tag == r.tag
    Ce.claims { ce with captures := left } + 1 = ce.claims ∧ left.length ≤ ce.captures.length := by
  intro left
  have hlength : left.length + 1 = ce.captures.length := List.length_eraseP_add_one h (beq_self_eq_true r.tag)
  refine ⟨?_, by omega⟩
  simp only [Ce.claims]
  omega

/-- Every record stays in the list or completes. -/
theorem length_getLeft?_add_getRight? {α β : Type} (l : List (α ⊕ β)) :
    (l.filterMap Sum.getLeft?).length + (l.filterMap Sum.getRight?).length = l.length := by
  induction l with
  | nil => rfl
  | cons x l ih =>
    rw [List.length_cons, ← ih]
    cases x with
    | inl a => exact Nat.succ_add _ _
    | inr b => rfl

/-! ### What keeps it: one rule per change of the numbers -/

section
variable {a : Fill} (h : a.Ok)
include h

/-- An immediate response in a free place (R155, R156). -/
theorem Fill.Ok.answered (hfree : a.entries + a.reservations ≤ 5) : Fill.Ok { a with entries := a.entries + 1 } :=
  { h with room := by dsimp only; omega }

/-- A reservation made in a free place for an operation that then holds it (R155, R156). -/
theorem Fill.Ok.reserved (hfree : a.entries + a.reservations ≤ 5) {captures : Nat} (hcaptures : captures ≤ 4) :
    Fill.Ok { a with reservations := a.reservations + 1, claims := a.claims + 1, captures := captures } :=
  { h with
    room := by dsimp only; omega
    held := congrArg (· + 1) h.held
    captures := hcaptures }

/-- Operations that end with as many responses as they held reservations (R155). -/
theorem Fill.Ok.converted {n claims captures : Nat} (hclaims : claims + n = a.claims)
    (hcaptures : captures ≤ a.captures) :
    Fill.Ok { a with
      entries := a.entries + n
      reservations := a.reservations - n
      claims := claims
      captures := captures } := by
  have hroom := h.room
  have hheld := h.held
  exact { h with
    room := by dsimp only; omega
    held := by dsimp only; omega
    captures := hcaptures.trans h.captures }

theorem Fill.Ok.credited {credits : Nat} (hcredits : credits ≤ 63) : Fill.Ok { a with credits := credits } :=
  { h with credits := hcredits }

theorem Fill.Ok.forwarded {forward : Nat} (hforward : forward ≤ 8) : Fill.Ok { a with forward := forward } :=
  { h with forward := hforward }

theorem Fill.Ok.commanded {commands : Nat} (hcommands : commands ≤ 4) : Fill.Ok { a with commands := commands } :=
  { h with commands := hcommands }

/-- A transmission start uses a credit and takes from the queues (R152). -/
theorem Fill.Ok.sent {forward entries : Nat} (hforward : forward ≤ a.forward) (hentries : entries ≤ a.entries) :
    Fill.Ok { a with credits := a.credits - 1, forward := forward, entries := entries } :=
  { h with
    credits := (Nat.sub_le _ _).trans h.credits
    forward := hforward.trans h.forward
    room := (Nat.add_le_add_right hentries _).trans h.room }

end

/-! ### The operations of the response queue -/

theorem State.respond_fill (f : CommandFrame) (code : ResponseCode) (payload : List Byte) (s : State) :
    (s.respond f code payload).fill = { s.fill with entries := s.fill.entries + 1 } := by
  simp [State.fill, Fill.of]

/-- A response built in its reservation leaves entries plus reservations as they are (R155). -/
theorem Dlt.convert_total {d : Dlt} {rs : List Response} (h : rs.length ≤ d.reservations) :
    (d.convert rs).responses.length + (d.convert rs).reservations = d.responses.length + d.reservations := by
  rw [Dlt.convert_responses, Dlt.convert_reservations, List.length_append]
  omega

/-- Operations of the CE end, each with a response for the reservation it held (R155). -/
theorem Fill.Ok.concluded {d : Dlt} {ce ce' : Ce} {m : Mx} (h : (Fill.of d ce m).Ok) {rs : List Response}
    (hclaims : ce'.claims + rs.length = ce.claims) (hcaptures : ce'.captures.length ≤ ce.captures.length) :
    (Fill.of (d.convert rs) ce' m).Ok := by
  have hfill : Fill.of (d.convert rs) ce' m = { Fill.of d ce m with
      entries := d.responses.length + rs.length
      reservations := d.reservations - rs.length
      claims := ce'.claims
      captures := ce'.captures.length } := by
    simp [Fill.of]
  rw [hfill]
  exact h.converted hclaims hcaptures

/-- The pending commit is applied and captures end, each with its response (R68, R137). -/
theorem Fill.Ok.committed {d : Dlt} {ce ce' : Ce} {m : Mx} (h : (Fill.of d ce m).Ok) (occasion : Occasion)
    (first : Option Byte) {ends : List Response} (hcommit : ce'.commit = none)
    (hends : ce'.captures.length + ends.length = ce.captures.length) :
    (Fill.of (d.convert (ce.commitDone occasion first ++ ends)) ce' m).Ok := by
  refine h.concluded ?_ (Nat.le.intro hends)
  rw [Ce.claims_of_none hcommit, ce.claims_eq occasion first, List.length_append]
  omega

/-! ### The events that change the numbers -/

/-- A credit frame leaves at most 63 credits and touches no queue (R149). -/
theorem Dlt.takeCredit_eq (frame : List Byte) (d : Dlt) :
    ∃ credits counters, d.takeCredit frame = { d with credits := credits, counters := counters } ∧
      (d.credits ≤ 63 → credits ≤ 63) := by
  unfold Dlt.takeCredit
  split
  · split
    · exact ⟨_, d.counters, rfl, fun _ => Nat.min_le_left _ _⟩
    · exact ⟨d.credits, _, rfl, id⟩
  · exact ⟨d.credits, _, rfl, id⟩

/-- The MX holds at most 4 commands (R160, R162). -/
theorem Mx.receive_queue_length_le (frame : List Byte) {m : Mx} (h : m.queue.length ≤ 4) :
    (m.receive frame).queue.length ≤ 4 := by
  unfold Mx.receive
  split
  · exact h
  · split
    next hroom =>
      rw [List.length_append]
      exact hroom
    · exact h

theorem State.receive_fillOk (frame : List Byte) {s : State} (h : s.fill.Ok) : (s.receive frame).fill.Ok := by
  unfold State.receive
  split
  · exact h
  split
  · obtain ⟨credits, counters, hcredit, hle⟩ := s.dlt.takeCredit_eq frame
    rw [State.onDlt, hcredit]
    exact h.credited (hle h.credits)
  · exact h.commanded (Mx.receive_queue_length_le frame h.commands)

/-- What a start attempt can do (R150, R152). -/
theorem State.start_cases (s : State) :
    s.start = s ∨ ∃ o fru forwardQueue responses counters,
      s.start = { s with
        fru := fru
        dlt := { s.dlt with
          credits := s.dlt.credits - 1
          transmitting := some o
          forwardQueue := forwardQueue
          responses := responses
          counters := counters } } ∧
      forwardQueue <:+ s.dlt.forwardQueue ∧ responses <:+ s.dlt.responses := by
  unfold State.start
  split
  · split
    · exact .inr ⟨_, _, _, _, _, rfl, List.suffix_rfl, List.suffix_rfl⟩
    split
    next r rest hresponses =>
      exact .inr ⟨_, s.fru, _, _, _, rfl, List.suffix_rfl, hresponses ▸ List.suffix_cons r rest⟩
    split
    next f rest hforward =>
      exact .inr ⟨_, s.fru, _, _, _, rfl, hforward ▸ List.suffix_cons f rest, List.suffix_rfl⟩
    · exact .inl rfl
  · exact .inl rfl

theorem State.start_fillOk {s : State} (h : s.fill.Ok) : s.start.fill.Ok := by
  rcases s.start_cases with e | ⟨o, fru, forwardQueue, responses, counters, e, hforward, hresponses⟩ <;> rw [e]
  · exact h
  · exact h.sent hforward.length_le hresponses.length_le

/-- A frame boundary: room for the output frame where it is forwarded (R39), and a response for each reservation that the
commit and the completing records held (R68, R137). -/
theorem State.boundary_fillOk {s : State} (hp : s.porst = .released) (h : s.fill.Ok) : s.boundary.fill.Ok := by
  rcases s.boundary_cases with e | ⟨f, rest, hq, hceFree, -⟩
  · rwa [e]
  have hfree := s.ceFree_iff.mp hceFree
  obtain ⟨queue, forwarded, shed, hexec, hdisposal⟩ := exec_frameBoundary_eq hp hq hfree
  rw [exec_frameBoundary hp] at hexec
  rw [Host.Outcome.next.inj hexec]
  have hqueue : queue.length ≤ 8 := by
    rcases hdisposal with ⟨hon, hup, rfl, -⟩ | ⟨-, -, rfl, -⟩ | ⟨-, rfl, -⟩
    · have hroom : s.dlt.forwardQueue.length ≤ 7 := by simpa [hon, hup] using hfree
      rw [List.length_append]
      exact Nat.succ_le_succ hroom
    · exact h.forward
    · exact h.forward
  have hends := length_getLeft?_add_getRight?
    (s.ce.captures.map (CaptureRecord.atBoundary s.ce.committed.applyChanges.substitutions f))
  rw [List.length_map] at hends
  have hforwarded : (Fill.of { s.dlt with forwardQueue := queue } s.ce s.mx).Ok := h.forwarded hqueue
  exact hforwarded.committed .frame (some f.sequence) s.ce.committed_commit hends

/-- A declaration: the commit and every capture end, each with its response (R69, R138). -/
theorem State.takeDeclaration_fillOk {s : State} (h : s.fill.Ok) : s.takeDeclaration.fill.Ok := by
  cases hn : s.handed.declarations with
  | zero => rwa [State.takeDeclaration_none hn]
  | succ n =>
    rw [State.takeDeclaration_succ hn]
    have hends : 0 + (s.ce.captures.map fun r => r.completion .captureStale r.examined).length =
        s.ce.captures.length := by
      rw [List.length_map, Nat.zero_add]
    exact Fill.Ok.committed h .stale none s.ce.committed_commit hends

/-- A delivery link reset empties every queue and leaves no reservation (R146). -/
theorem State.linkReset_fill (s : State) : s.linkReset.fill = ⟨0, 0, 0, 0, 0, 0, 0⟩ := by
  change (⟨0, 0, 0, 0, 0, (s.ce.dropLink s.dlt.forwardQueue.length).claims, 0⟩ : Fill) = _
  rw [Ce.claims_dropLink]

/-- Every event keeps the queue invariant. -/
theorem eventEffect_fillOk (i : Instr) {s : State} (hp : s.porst = .released) (h : s.fill.Ok) :
    (eventEffect i s).fill.Ok := by
  have unchanged {t u : State} (e : t = u) (hu : u.fill = s.fill) : t.fill.Ok := e ▸ hu ▸ h
  cases i with
  | frameBoundary => exact State.boundary_fillOk hp h
  | declarationHandedToCe => exact State.takeDeclaration_fillOk h
  | linkDown => exact s.linkReset_fill ▸ Fill.ok_empty
  | commandFrame frame | creditFrame frame => exact State.receive_fillOk frame h
  | transmissionStart => exact State.start_fillOk h
  | lockLost =>
    obtain ⟨⟨_, _, e⟩, -⟩ := acquisition_frame s []
    exact unchanged e rfl
  | arrival frame =>
    obtain ⟨-, ⟨_, _, e⟩, -⟩ := acquisition_frame s frame
    exact unchanged e rfl
  | staleTimerExpiry =>
    obtain ⟨-, -, ⟨_, _, e⟩, -⟩ := acquisition_frame s []
    exact unchanged e rfl
  | factorRaise source =>
    obtain ⟨_, _, e⟩ := takeRaise_frame s source
    exact unchanged e rfl
  | selectionAttempt =>
    obtain ⟨_, e⟩ := attempt_frame s
    exact unchanged e rfl
  | _ => exact h

theorem State.period_fillOk {s : State} (h : s.fill.Ok) : s.period.fill.Ok := by
  obtain ⟨-, -, -, _, _, e⟩ := acquisition_frame s []
  rw [e]
  exact h

/-! ### The acts of commands, by their shape -/

/-- In a free place a command is answered, makes a reservation, or ends a capture and is answered (R156, R164). -/
theorem ActShape.fillOk {f : CommandFrame} {s t : State} (hshape : ActShape f s t) (h : s.fill.Ok)
    (hfree : s.dlt.responses.length + s.dlt.reservations ≤ 5) : t.fill.Ok := by
  cases hshape with
  | refuse code payload _ =>
    rw [State.respond_fill]
    exact h.answered hfree
  | answer alr ce fru counters checkFail discarded code payload _ hcaptures hcommit =>
    rw [State.respond_fill]
    refine Fill.Ok.answered ?_ hfree
    have hfill : Fill.of { s.dlt with counters := counters } ce
        { s.mx with checkFail := checkFail, discarded := discarded } = s.fill := by
      simp [State.fill, Fill.of, Ce.claims_congr hcaptures hcommit, hcaptures]
    rw [← hfill] at h
    exact h
  | reserve ce hclaims hcaptures =>
    have hfill : ((s.onCe fun _ => ce).onDlt Dlt.reserve).fill = { s.fill with
        reservations := s.fill.reservations + 1
        claims := s.fill.claims + 1
        captures := ce.captures.length } := by
      simp [State.fill, Fill.of, hclaims]
    rw [hfill]
    exact h.reserved hfree (hcaptures h.captures)
  | cancel r examined payload hr =>
    obtain ⟨hclaims, hcaptures⟩ := Ce.claims_eraseP hr
    rw [State.respond_fill]
    have hone : 1 ≤ s.dlt.reservations := by
      have hheld : s.dlt.reservations = s.ce.claims := h.held
      omega
    have htotal := Dlt.convert_total (d := s.dlt) (rs := [r.completion .captureCancelled examined]) hone
    exact (Fill.Ok.concluded h hclaims hcaptures).answered (htotal.trans_le hfree)

/-- Every command's act at its turn keeps the queue invariant. -/
theorem commandAct_fillOk {i : Instr} {f : CommandFrame} {s : State} {rest : List CommandFrame}
    (hc : commandOf i = some f) (hx : s.Executes f rest) (h : s.fill.Ok) :
    (commandAct f i (s.dequeued rest)).fill.Ok := by
  obtain ⟨-, hq, hfree⟩ := hx
  have hrest : rest.length ≤ s.mx.queue.length := by
    rw [hq]
    exact Nat.le_succ _
  exact (commandAct_shape hc (s.dequeued rest)).fillOk (h.commanded (hrest.trans h.commands)) hfree

end Sys2Proof.Machine

namespace Sys2Proof.Proofs

open Sys2Proof.Machine

/-- Settles O55: the invariant is one of seven numbers, kept by every event, every command's act and a period. -/
theorem everyStepKeepsTheQueuesOk : Obligations.EveryStepKeepsTheQueuesOk := by
  unfold Obligations.EveryStepKeepsTheQueuesOk
  intro s t hs hstep
  rw [State.fillOk_iff] at hs ⊢
  exact step_keeps (Inv := fun s => s.fill.Ok) (fun _ _ h => h)
    (fun _ _ _ h => exec_keeps (Inv := fun s => s.fill.Ok) (fun _ _ => Fill.ok_empty) (fun _ h => h)
      (fun i _ _ hp h => eventEffect_fillOk i hp h) (fun _ _ _ _ hc _ hx h => commandAct_fillOk hc hx h) h)
    (fun _ h => State.period_fillOk h) hs hstep

end Sys2Proof.Proofs
end

section
/-! CAPTURE and CANCEL_CAPTURE at their turn: the four checks of a CAPTURE and the record it makes, the record that a
CANCEL_CAPTURE completes, and the layout of every capture completion (R131, R132, R137, R140, R181). -/

namespace Sys2Proof.Machine

/-! ### The list without a tag and with the first record of a tag (R128) -/

section
variable {list below above : List CaptureRecord} {r : CaptureRecord} {tag : Byte}

theorem find?_untagged (h : ∀ x ∈ list, x.tag ≠ tag) : list.find? (fun x => x.tag == tag) = none := by
  simpa using h

/-- The record that stands first under a tag is the one found. -/
theorem find?_tagged (hbelow : ∀ x ∈ below, x.tag ≠ tag) (hr : r.tag = tag) :
    (below ++ r :: above).find? (fun x => x.tag == tag) = some r := by
  rw [List.find?_append, find?_untagged hbelow, Option.none_or, List.find?_cons_of_pos (by simpa using hr)]

/-- The record that stands first under a tag is the one that leaves the list. -/
theorem eraseP_tagged (hbelow : ∀ x ∈ below, x.tag ≠ tag) (hr : r.tag = tag) :
    (below ++ r :: above).eraseP (fun x => x.tag == tag) = below ++ above := by
  rw [List.eraseP_append_right _ (by simpa using hbelow), List.eraseP_cons_of_pos (by simpa using hr)]

end

/-! ### CAPTURE (R131, R132) -/

section
variable (f : CommandFrame) {set : Word} {limit : Byte} {s : State}

/-- Checks 1 and 2: the set is empty, or the limit is 0 or above 64. -/
theorem capture_bad (h : set = 0 ∨ limit.toNat = 0 ∨ 64 < limit.toNat) : capture f set limit s = s.badArgument f := by
  unfold capture
  split
  · rfl
  next hset => rw [if_pos (h.resolve_left hset)]

variable (hset : set ≠ 0) (hlimit : ¬(limit.toNat = 0 ∨ 64 < limit.toNat))
include hset hlimit

/-- Check 3 finds the record that has the tag. -/
theorem capture_tagInUse {r : CaptureRecord} (hfind : s.ce.captures.find? (fun x => x.tag == f.tag) = some r) :
    capture f set limit s = s.respond f .tagInUse [f.tag, r.phase.byte, byteOf r.examined] := by
  simp only [capture, if_neg hset, if_neg hlimit, hfind]

/-- Check 4 finds 4 records, none with the tag. -/
theorem capture_busy (hfind : s.ce.captures.find? (fun x => x.tag == f.tag) = none) (hfull : 4 ≤ s.ce.captures.length) :
    capture f set limit s =
      s.respond f .captureBusy (byteOf s.ce.captures.length :: s.ce.captures.map (·.tag)) := by
  simp only [capture, if_neg hset, if_neg hlimit, hfind]
  exact if_neg (Nat.not_lt.mpr hfull)

/-- All four checks passed: a WAITING record with every slot empty, and a reservation (R132). -/
theorem capture_accepts (hfind : s.ce.captures.find? (fun x => x.tag == f.tag) = none)
    (hroom : s.ce.captures.length ≤ 3) :
    capture f set limit s =
      (s.onCe fun ce => { ce with captures := ce.captures ++ [.accepted f.tag set limit.toNat] }).onDlt
        Dlt.reserve := by
  simp only [capture, if_neg hset, if_neg hlimit, hfind]
  exact if_pos (Nat.lt_succ_of_le hroom)

end

/-! ### CANCEL_CAPTURE (R140) -/

theorem cancelCapture_unknown (f : CommandFrame) {captureTag : Byte} {s : State}
    (h : ∀ r ∈ s.ce.captures, r.tag ≠ captureTag) :
    cancelCapture f captureTag s = s.respond f .noSuchCapture [captureTag] := by
  simp only [cancelCapture, find?_untagged h]

/-- The first record of the tag leaves the list; its completion takes its reservation, and DONE follows. -/
theorem cancelCapture_cancels (f : CommandFrame) {captureTag : Byte} {s : State} {below above : List CaptureRecord}
    {r : CaptureRecord} (hlist : s.ce.captures = below ++ r :: above) (hr : r.tag = captureTag)
    (hbelow : ∀ x ∈ below, x.tag ≠ captureTag) :
    cancelCapture f captureTag s =
      ((s.onCe fun ce => { ce with captures := below ++ above }).onDlt
        (Dlt.convert [r.completion .captureCancelled r.examined])).respond f .done
          [captureTag, r.phase.byte, byteOf r.examined] := by
  simp only [cancelCapture, hlist, find?_tagged hbelow hr, State.onCe, eraseP_tagged hbelow hr]

/-! ### The layout of a completion (R137, R181) -/

/-- One item of a completion: the channel, then its slot. -/
theorem slotBytes_eq (c : Channel) (slot : Option Collected) :
    slotBytes c slot = byteOf c.val ::
      match slot with
      | none => [0, 0, 0, 0, 0]
      | some x => [1] ++ halfBytes x.value ++ [x.sequence, if x.substituted then 1 else 0] := by
  cases slot <;> rfl

/-- The slots present are counted over the channels of the set. -/
theorem CaptureRecord.collected_eq_length (r : CaptureRecord) :
    r.collected = (((List.finRange 32).filter r.names).filter fun c => r.slots[c].isSome).length := by
  rw [CaptureRecord.collected, List.countP_eq_length_filter, List.filter_filter]
  simp only [Bool.and_comm]
  rfl

end Sys2Proof.Machine

namespace Sys2Proof.Proofs

open Sys2Proof.Machine

/-- Settles O42: the checks of `capture` one by one, the tag looked for in the list before its length. -/
theorem captureChecksThenAccepts : Obligations.CaptureChecksThenAccepts := by
  unfold Obligations.CaptureChecksThenAccepts
  intro s tag set limit rest hx run
  have hrun : run = .next (capture ⟨tag, 12, wordBytes set ++ [limit]⟩ set limit (s.dequeued rest)) :=
    exec_command_executes rfl rfl hx
  refine ⟨fun hbad => ?_, fun hset hmin hmax => ?_⟩
  · rw [hrun, capture_bad _ hbad, State.badArgument_dequeued]
  have hlimit : ¬(limit.toNat = 0 ∨ 64 < limit.toNat) := by omega
  refine ⟨fun below r above hlist hr hbelow => ?_, fun hnew hfull => ?_, fun hnew hroom => ?_⟩
  · have hfind : s.ce.captures.find? (fun x => x.tag == tag) = some r := hlist ▸ find?_tagged hbelow hr
    rw [hrun, capture_tagInUse (s := s.dequeued rest) _ hset hlimit hfind, State.respond_dequeued]
    cases hphase : r.phase <;> simp [CaptureRecord.examined, hphase, Phase.byte, byteOf]
  · have hfind : s.ce.captures.find? (fun x => x.tag == tag) = none := find?_untagged hnew
    rw [hrun, capture_busy (s := s.dequeued rest) _ hset hlimit hfind hfull, State.respond_dequeued]
    rfl
  · have hfind : s.ce.captures.find? (fun x => x.tag == tag) = none := find?_untagged hnew
    rw [hrun, capture_accepts (s := s.dequeued rest) _ hset hlimit hfind hroom]
    rfl

/-- Settles O43: the layout of `CaptureRecord.completion`, then `cancelCapture` by whether a record has the tag. -/
theorem cancelCaptureCompletesItsRecord : Obligations.CancelCaptureCompletesItsRecord := by
  unfold Obligations.CancelCaptureCompletesItsRecord
  intro payload
  have hlayout (r : CaptureRecord) (code : ResponseCode) (examined : Nat) :
      r.completion code examined = ⟨r.tag, 12, code, payload r examined⟩ := by
    rw [CaptureRecord.completion, r.collected_eq_length]
    simp only [slotBytes_eq]
    rfl
  refine ⟨hlayout, fun s tag captureTag rest hx => ?_⟩
  rw [exec_command_executes rfl rfl hx, commandAct]
  refine ⟨fun hnone => ?_, fun below r above hlist hr hbelow => ?_⟩
  · rw [cancelCapture_unknown (s := s.dequeued rest) _ hnone, State.respond_dequeued]
  · intro examined phase
    rw [cancelCapture_cancels (s := s.dequeued rest) _ hlist hr hbelow, hlayout, hr]
    simp only [State.respond, Dlt.append, Dlt.convert, State.onDlt, List.append_assoc]
    rfl

end Sys2Proof.Proofs
end

section
/-! The delivery link's own events: the return lane (R145, R148, R149, R161, R162), the start of a transmission from its
three sources (R150, R152), its end and LINK_UP (R145, R153). -/

namespace Sys2Proof.Machine

/-! ### The return lane (R145, R148) -/

theorem exec_creditFrame {s : State} (hp : s.porst = .released) (frame : List Byte) :
    exec (.creditFrame frame) s = .next (s.receive frame) :=
  exec_event_released hp rfl nofun nofun

theorem exec_commandFrame {s : State} (hp : s.porst = .released) (frame : List Byte) :
    exec (.commandFrame frame) s = .next (s.receive frame) :=
  exec_event_released hp rfl nofun nofun

/-- While DOWN no frame is received (R145). -/
theorem State.receive_down {s : State} (h : s.dlt.link = .down) (frame : List Byte) : s.receive frame = s := by
  simp only [State.receive, h]

/-- While UP a credit frame goes to the DLT (R148). -/
theorem State.receive_credit {s : State} {frame : List Byte} (hup : s.dlt.link = .up)
    (hcredit : isCreditFrame frame = true) : s.receive frame = s.onDlt (Dlt.takeCredit frame) := by
  simp only [State.receive, hup, hcredit, if_true]

/-- While UP every other frame goes to the MX (R148). -/
theorem State.receive_command {s : State} {frame : List Byte} (hup : s.dlt.link = .up)
    (hcredit : isCreditFrame frame = false) : s.receive frame = s.onMx (Mx.receive frame) := by
  simp only [State.receive, hup, hcredit, Bool.false_eq_true, if_false]

/-! ### A credit frame (R149, R180) -/

/-- A frame of 4 bytes with a grant of 1 to 63 adds its grant, capped at 63. -/
theorem Dlt.takeCredit_grants {frame : List Byte} (hlength : frame.length = 4) (hmin : 1 ≤ (frame.getD 1 0).toNat)
    (hmax : (frame.getD 1 0).toNat ≤ 63) (d : Dlt) :
    d.takeCredit frame = { d with
      credits := if d.credits + (frame.getD 1 0).toNat ≤ 63 then d.credits + (frame.getD 1 0).toNat else 63 } := by
  match frame, hlength with
  | [_, grant, _, _], _ =>
    change 1 ≤ grant.toNat at hmin
    change grant.toNat ≤ 63 at hmax
    have hsum : min 63 (d.credits + grant.toNat) =
        if d.credits + grant.toNat ≤ 63 then d.credits + grant.toNat else 63 := by
      split <;> omega
    exact (if_pos ⟨hmin, hmax⟩).trans (congrArg (fun n => { d with credits := n }) hsum)

/-- Any other frame is discarded and counted. -/
theorem Dlt.takeCredit_discards {frame : List Byte}
    (h : frame.length ≠ 4 ∨ (frame.getD 1 0).toNat = 0 ∨ 63 < (frame.getD 1 0).toNat) (d : Dlt) :
    d.takeCredit frame = { d with
      counters := { d.counters with creditDiscarded := d.counters.creditDiscarded + 1 } } := by
  unfold Dlt.takeCredit
  split
  next kind grant high low =>
    have hgrant : ¬(1 ≤ grant.toNat ∧ grant.toNat ≤ 63) := by
      rcases h with h | h | h
      · exact absurd rfl h
      · exact fun hin => absurd h (Nat.ne_of_gt hin.1)
      · exact fun hin => absurd h (Nat.not_lt.mpr hin.2)
    exact if_neg hgrant
  · rfl

/-! ### A frame handed to the MX (R161, R162) -/

theorem Mx.receive_drops {frame : List Byte} (h : readCommandFrame frame = none) (m : Mx) :
    m.receive frame = { m with checkFail := m.checkFail + 1 } := by
  simp only [Mx.receive, h]

theorem Mx.receive_discards {frame : List Byte} {f : CommandFrame} (h : readCommandFrame frame = some f) {m : Mx}
    (hfull : 4 ≤ m.queue.length) : m.receive frame = { m with discarded := m.discarded + 1 } := by
  simp only [Mx.receive, h]
  exact if_neg (Nat.not_lt.mpr hfull)

theorem Mx.receive_queues {frame : List Byte} {f : CommandFrame} (h : readCommandFrame frame = some f) {m : Mx}
    (hroom : m.queue.length ≤ 3) : m.receive frame = { m with queue := m.queue ++ [f] } := by
  simp only [Mx.receive, h]
  exact if_pos (Nat.lt_succ_of_le hroom)

/-! ### A start attempt (R150, R152) -/

theorem exec_transmissionStart {s : State} (hp : s.porst = .released) : exec .transmissionStart s = .next s.start :=
  exec_event_released hp rfl nofun nofun

/-- While the lane is not free an attempt starts nothing (R150). -/
theorem State.start_waits {s : State} (h : s.dlt.link = .down ∨ s.dlt.transmitting ≠ none ∨ s.dlt.credits = 0) :
    s.start = s := by
  refine if_neg fun hfree => ?_
  obtain ⟨hup, hnone, hcredit⟩ := s.laneFree_iff.mp hfree
  rcases h with h | h | h
  · rw [hup] at h
    cases h
  · exact h hnone
  · omega

/-- With nothing to send an attempt starts nothing (R150). -/
theorem State.start_empty {s : State} (hslot : s.fru.slot = none) (hresponses : s.dlt.responses = [])
    (hforward : s.dlt.forwardQueue = []) : s.start = s := by
  simp only [State.start, hslot, hresponses, hforward, ite_self]

section
variable {s : State} (hfree : s.laneFree = true)
include hfree

/-- The report in the slot goes first. -/
theorem State.start_report {r : Report} (hslot : s.fru.slot = some r) :
    s.start = (s.onFru fun fru => { fru with slot := none }).startFrame (.report r) := by
  simp only [State.start, hfree, hslot, if_true]

/-- With the slot empty, the head of the response queue goes. -/
theorem State.start_response {r : Response} {rest : List Response} (hslot : s.fru.slot = none)
    (hresponses : s.dlt.responses = r :: rest) :
    s.start = (s.onDlt fun d => { d with responses := rest }).startFrame (.response r) := by
  simp only [State.start, hfree, hslot, hresponses, if_true]

/-- With no report and no response, the head of the forward queue goes. -/
theorem State.start_sample {f : OutputFrame} {rest : List OutputFrame} (hslot : s.fru.slot = none)
    (hresponses : s.dlt.responses = []) (hforward : s.dlt.forwardQueue = f :: rest) :
    s.start = (s.onDlt fun d => { d with forwardQueue := rest }).startFrame (.sample f) := by
  simp only [State.start, hfree, hslot, hresponses, hforward, if_true]

end

end Sys2Proof.Machine

namespace Sys2Proof.Proofs

open Sys2Proof.Machine

/-- Settles O24: the lane's sorting, then `Dlt.takeCredit` on its two kinds of frame. -/
theorem creditFrameAddsItsGrant : Obligations.CreditFrameAddsItsGrant := by
  unfold Obligations.CreditFrameAddsItsGrant
  refine ⟨isCreditFrame_iff, fun s frame hp hup hcredit => ?_⟩
  rw [exec_creditFrame hp, State.receive_credit hup hcredit, State.onDlt]
  refine ⟨fun hlength hmin hmax => ?_, fun hbad => ?_⟩
  · rw [Dlt.takeCredit_grants hlength hmin hmax]
  · rw [Dlt.takeCredit_discards hbad]

/-- Settles O26: the lane's sorting, then `Mx.receive` by the tests of R161 and the room in the command queue. -/
theorem commandFrameIsQueuedOrCounted : Obligations.CommandFrameIsQueuedOrCounted := by
  unfold Obligations.CommandFrameIsQueuedOrCounted
  intro s frame hp hup hcredit
  rw [exec_commandFrame hp, State.receive_command hup hcredit, State.onMx]
  refine ⟨fun hdrop => ?_, fun f hread => ⟨fun hfull => ?_, fun hroom => ?_⟩⟩
  · rw [Mx.receive_drops hdrop]
  · rw [Mx.receive_discards hread hfull]
  · rw [Mx.receive_queues hread hroom]

/-- Settles O27: one equation of `State.start` for each source, and two for an attempt that starts nothing. -/
theorem transmissionStartChoosesTheSource : Obligations.TransmissionStartChoosesTheSource := by
  unfold Obligations.TransmissionStartChoosesTheSource
  intro s hp
  rw [exec_transmissionStart hp]
  refine ⟨fun hfails => ?_, fun hup hnone hcredit => ?_⟩
  · have hstart : s.start = s := by
      rcases hfails with h | h | h | ⟨hslot, hresponses, hforward⟩
      · exact State.start_waits (.inl h)
      · exact State.start_waits (.inr (.inl h))
      · exact State.start_waits (.inr (.inr h))
      · exact State.start_empty hslot hresponses hforward
    rw [hstart]
  have hfree : s.laneFree = true := s.laneFree_iff.mpr ⟨hup, hnone, hcredit⟩
  refine ⟨fun r hslot => ?_, fun r rest hslot hresponses => ?_, fun f rest hslot hresponses hforward => ?_⟩
  · rw [State.start_report hfree hslot]
    rfl
  · rw [State.start_response hfree hslot hresponses]
    rfl
  · rw [State.start_sample hfree hslot hresponses hforward]
    rfl

/-- Settles O28: the first two events are updates of the DLT, and `State.receive` leaves a DOWN link's part as it is. -/
theorem transmissionEndLinkUpAndSilentLane : Obligations.TransmissionEndLinkUpAndSilentLane := by
  unfold Obligations.TransmissionEndLinkUpAndSilentLane
  intro s hp
  refine ⟨exec_event_released hp rfl nofun nofun, exec_event_released hp rfl nofun nofun, fun frame hdown => ?_⟩
  rw [exec_creditFrame hp, exec_commandFrame hp, State.receive_down hdown]
  exact ⟨rfl, rfl⟩

end Sys2Proof.Proofs
end

section
/-! The turn and the place of a command: it waits for both (R156, R163), and one execution takes exactly one place of
the response queue (R155, R162, R164). -/

namespace Sys2Proof.Machine

/-- The act of a command adds 1 to entries plus reservations and only appends responses, where every reservation is one
that an operation holds (R155, R164). -/
theorem ActShape.takesOnePlace {f : CommandFrame} {s t : State} (h : ActShape f s t)
    (hheld : s.dlt.reservations = s.ce.claims) :
    t.dlt.responses.length + t.dlt.reservations = s.dlt.responses.length + s.dlt.reservations + 1 ∧
      ∃ new, t.dlt.responses = s.dlt.responses ++ new := by
  cases h with
  | refuse code payload _ | answer _ _ _ _ _ _ code payload _ _ _ =>
    refine ⟨?_, _, rfl⟩
    simp only [State.respond_dlt, Dlt.append_responses, Dlt.append_reservations, List.length_append,
      List.length_singleton]
    omega
  | reserve ce _ _ =>
    refine ⟨?_, [], ?_⟩
    · simp only [State.onDlt_dlt, State.onCe_dlt, Dlt.reserve_responses, Dlt.reserve_reservations]
      omega
    · simp
  | cancel r examined payload hr =>
    have hone : 1 ≤ s.dlt.reservations := by
      obtain ⟨hclaims, -⟩ := Ce.claims_eraseP hr
      omega
    have htotal := Dlt.convert_total (d := s.dlt) (rs := [r.completion .captureCancelled examined]) hone
    refine ⟨?_, _, List.append_assoc _ _ _⟩
    simp only [State.respond_dlt, Dlt.append_responses, Dlt.append_reservations, List.length_append,
      List.length_singleton, State.onDlt_dlt, State.onCe_dlt]
    omega

end Sys2Proof.Machine

namespace Sys2Proof.Proofs

open Sys2Proof.Machine

/-- Settles O48: the row is an execution, and `State.execute` out of its turn or without a place is the state. -/
theorem commandsWaitForTheirTurnAndPlace : Obligations.CommandsWaitForTheirTurnAndPlace := by
  unfold Obligations.CommandsWaitForTheirTurnAndPlace
  intro i f s hc hp hwaits
  cases hw : i.wellFormed with
  | false => exact exec_command_ill hc hw s
  | true => rw [exec_command hc hw, State.taking_released _ hp, State.execute_waits _ hwaits]

/-- Settles O49: the frame of a command's act for what stands, its four shapes for the place it takes. -/
theorem executionTakesOnePlace : Obligations.ExecutionTakesOnePlace := by
  unfold Obligations.ExecutionTakesOnePlace
  intro i f rest s hc hw hx hresponses
  obtain ⟨-, hheld, -⟩ := hresponses
  have hplace := (commandAct_shape hc (s.dequeued rest)).takesOnePlace hheld
  obtain ⟨alr, ce, fru, responses, reservations, counters, checkFail, discarded, hact⟩ :=
    commandAct_frame hc (s.dequeued rest)
  rw [exec_command_executes hc hw hx]
  rw [hact] at hplace ⊢
  exact ⟨_, rfl, rfl, rfl, hx.1, rfl, rfl, rfl, rfl, rfl, hplace⟩

end Sys2Proof.Proofs
end

section
/-! The link invariant: a part whose D-link is DOWN is silent, a part with PORST asserted holds its reset values, and
every queued command frame has its command's length; kept by every step (R113, R145 to R147, R161, R182). -/

namespace Sys2Proof.Machine

/-! ### A silent part -/

/-- What a delivery link reset leaves of the DLT, the CE, the FRU and the MX, and what stands while DOWN (R113, R146,
R147): nothing to send and nothing that would answer. -/
structure State.Silent (s : State) : Prop where
  credits : s.dlt.credits = 0
  transmitting : s.dlt.transmitting = none
  forwardQueue : s.dlt.forwardQueue = []
  responses : s.dlt.responses = []
  reservations : s.dlt.reservations = 0
  commands : s.mx.queue = []
  captures : s.ce.captures = []
  suppressed : ∀ p, s.ce.commit = some p → p.suppressed = true
  slot : s.fru.slot = none
  saved : s.fru.saved = []
  level : s.fru.level = 0
  gate : s.fru.gate = .closed

theorem State.downOk_iff (s : State) : s.DownOk ↔ (s.dlt.link = .down → s.Silent) := by
  refine forall_congr' fun _ => ⟨?_, fun h => ?_⟩
  · rintro ⟨credits, transmitting, forwardQueue, responses, reservations, commands, captures, suppressed, slot, saved,
      level, gate⟩
    exact ⟨credits, transmitting, forwardQueue, responses, reservations, commands, captures, suppressed, slot, saved,
      level, gate⟩
  · exact ⟨h.credits, h.transmitting, h.forwardQueue, h.responses, h.reservations, h.commands, h.captures, h.suppressed,
      h.slot, h.saved, h.level, h.gate⟩

theorem State.powerOnReset_silent (s : State) : s.powerOnReset.Silent :=
  ⟨rfl, rfl, rfl, rfl, rfl, rfl, rfl, nofun, rfl, rfl, rfl, rfl⟩

/-- A delivery link reset leaves a silent part (R112, R141, R146, R169). -/
theorem State.linkReset_silent (s : State) : s.linkReset.Silent := by
  have hsuppressed : ∀ p, s.linkReset.ce.commit = some p → p.suppressed = true := by
    intro p hp
    obtain ⟨_, -, rfl⟩ := Option.map_eq_some_iff.mp hp
    rfl
  exact ⟨rfl, rfl, rfl, rfl, rfl, rfl, rfl, hsuppressed, rfl, rfl, rfl, rfl⟩

section
variable {s : State} (h : s.Silent)
include h

/-- The application of a silent part's commit answers nothing (R70). -/
theorem State.Silent.commitDone (occasion : Occasion) (first : Option Byte) : s.ce.commitDone occasion first = [] := by
  unfold Ce.commitDone
  split
  next tag hc => exact absurd (h.suppressed _ hc) nofun
  · rfl

/-- A boundary of a silent part with its D-link DOWN sheds its output frame and answers nothing (R58, R70). -/
theorem State.Silent.boundary (hp : s.porst = .released) (hdown : s.dlt.link = .down) : s.boundary.Silent := by
  rcases s.boundary_cases with e | ⟨f, rest, hq, -, -⟩
  · rwa [e]
  obtain ⟨queue, forwarded, shed, hexec, hdisposal⟩ := exec_frameBoundary_eq hp hq (.inr (.inr hdown))
  have hqueue : queue = s.dlt.forwardQueue := by
    rcases hdisposal with ⟨-, hup, -⟩ | ⟨-, -, hqueue, -⟩ | ⟨-, hqueue, -⟩
    · rw [hdown] at hup
      cases hup
    · exact hqueue
    · exact hqueue
  rw [exec_frameBoundary hp, hqueue, h.commitDone, h.captures] at hexec
  rw [Host.Outcome.next.inj hexec]
  exact { h with
    responses := congrArg (· ++ []) h.responses
    reservations := congrArg (· - 0) h.reservations
    captures := rfl
    suppressed := fun p hc => absurd (s.ce.committed_commit.symm.trans hc) nofun }

/-- A declaration ends no capture of a silent part and answers nothing (R69, R70). -/
theorem State.Silent.takeDeclaration : s.takeDeclaration.Silent := by
  cases hn : s.handed.declarations with
  | zero => rwa [State.takeDeclaration_none hn]
  | succ n =>
    rw [State.takeDeclaration_succ hn, h.commitDone, h.captures]
    exact { h with
      responses := congrArg (· ++ []) h.responses
      reservations := congrArg (· - 0) h.reservations
      captures := rfl
      suppressed := fun p hc => absurd (s.ce.committed_commit.symm.trans hc) nofun }

/-- A raise acts on a factor record alone (R79). -/
theorem State.Silent.takeRaise (source : RaiseSource) : (s.takeRaise source).Silent := by
  unfold State.takeRaise
  split <;> split
  all_goals exact { h with }

/-- No event gives a silent part with its D-link DOWN anything to send. -/
theorem State.Silent.eventEffect (i : Instr) (hp : s.porst = .released) (hdown : s.dlt.link = .down) :
    (eventEffect i s).Silent := by
  have silent {t u : State} (e : t = u) (hu : u.Silent) : t.Silent := e ▸ hu
  cases i with
  | lockLost =>
    obtain ⟨⟨_, _, e⟩, -⟩ := acquisition_frame s []
    exact silent e { h with }
  | arrival frame =>
    obtain ⟨-, ⟨_, _, e⟩, -⟩ := acquisition_frame s frame
    exact silent e { h with }
  | staleTimerExpiry =>
    obtain ⟨-, -, ⟨_, _, e⟩, -⟩ := acquisition_frame s []
    exact silent e { h with }
  | factorRaise source => exact h.takeRaise source
  | frameBoundary => exact h.boundary hp hdown
  | declarationHandedToCe => exact h.takeDeclaration
  | selectionAttempt => exact silent (State.attempt_waits (.inl (State.not_selectionOpen (.inr (.inr hdown))))) h
  | transmissionStart => exact silent (State.start_waits (.inl hdown)) h
  | commandFrame frame | creditFrame frame => exact silent (State.receive_down hdown frame) h
  | transmissionEnd => exact { h with transmitting := rfl }
  | linkDown => exact s.linkReset_silent
  | _ => exact { h with }

end

/-! ### The arguments of a good command frame (R161) -/

/-- A frame that passes test 4 of R161 has the argument length of its command. -/
theorem readCommandFrame_arguments {frame : List Byte} {f : CommandFrame} {n : Nat}
    (h : readCommandFrame frame = some f) (hn : argumentLength f.code = some n) : f.arguments.length = n := by
  unfold readCommandFrame at h
  split at h
  · cases h
  split at h
  · split at h
    · cases h
    split at h
    next kind tag code rest _ k hk =>
      split at h
      next hlength =>
        cases h
        obtain rfl : k = n := Option.some.inj (hk.symm.trans hn)
        rw [List.length_take, hlength]
        exact Nat.min_eq_left (Nat.le_add_right k 2)
      · cases h
    next kind tag code rest _ hk =>
      cases h
      exact absurd (hk.symm.trans hn) nofun
  · cases h

/-- The MX queues good command frames alone (R161, R162). -/
theorem Mx.receive_queue (frame : List Byte) (m : Mx) :
    (m.receive frame).queue = m.queue ∨
      ∃ f, readCommandFrame frame = some f ∧ (m.receive frame).queue = m.queue ++ [f] := by
  cases hread : readCommandFrame frame with
  | none => exact .inl (by rw [Mx.receive_drops hread])
  | some f =>
    rcases Nat.lt_or_ge m.queue.length 4 with hroom | hfull
    · exact .inr ⟨f, rfl, by rw [Mx.receive_queues hread (Nat.le_of_lt_succ hroom)]⟩
    · exact .inl (by rw [Mx.receive_discards hread hfull])

/-! ### What every event, every act and a period do to the pin, the link and the command queue -/

/-- The pin stands; a link that is UP stays UP, or the part is left silent; only good frames enter the command queue. -/
structure State.LinkFrame (s t : State) : Prop where
  porst : t.porst = s.porst
  link : s.dlt.link = .up → t.dlt.link = .up ∨ t.Silent
  commands : ∀ f ∈ t.mx.queue, f ∈ s.mx.queue ∨ ∃ frame, readCommandFrame frame = some f

/-- An update of other blocks. -/
theorem State.LinkFrame.of_eq {s t u : State} (e : t = u) (hporst : u.porst = s.porst)
    (hlink : u.dlt.link = s.dlt.link) (hqueue : u.mx.queue = s.mx.queue) : s.LinkFrame t :=
  ⟨e ▸ hporst, fun hup => .inl (e ▸ hlink.trans hup), fun _ hf => .inl (hqueue ▸ e ▸ hf)⟩

theorem State.receive_linkFrame (frame : List Byte) (s : State) : s.LinkFrame (s.receive frame) := by
  obtain ⟨_, _, e, hlink⟩ := receive_frame s frame
  refine ⟨e ▸ rfl, fun hup => .inl (e ▸ hlink.trans hup), fun f hf => ?_⟩
  cases hup : s.dlt.link with
  | down => exact .inl (State.receive_down hup frame ▸ hf)
  | up =>
    cases hcredit : isCreditFrame frame with
    | true =>
      rw [State.receive_credit hup hcredit] at hf
      exact .inl hf
    | false =>
      rw [State.receive_command hup hcredit, State.onMx_mx] at hf
      rcases s.mx.receive_queue frame with hsame | ⟨g, hread, happend⟩
      · exact .inl (hsame ▸ hf)
      · rw [happend, List.mem_append, List.mem_singleton] at hf
        exact hf.imp_right fun hg : f = g => ⟨frame, hg ▸ hread⟩

theorem eventEffect_linkFrame (i : Instr) (s : State) : s.LinkFrame (eventEffect i s) := by
  cases i with
  | lockLost =>
    obtain ⟨⟨_, _, e⟩, -⟩ := acquisition_frame s []
    exact .of_eq e rfl rfl rfl
  | arrival frame =>
    obtain ⟨-, ⟨_, _, e⟩, -⟩ := acquisition_frame s frame
    exact .of_eq e rfl rfl rfl
  | staleTimerExpiry =>
    obtain ⟨-, -, ⟨_, _, e⟩, -⟩ := acquisition_frame s []
    exact .of_eq e rfl rfl rfl
  | factorRaise source =>
    obtain ⟨_, _, e⟩ := takeRaise_frame s source
    exact .of_eq e rfl rfl rfl
  | frameBoundary =>
    obtain ⟨_, _, _, _, e, hlink⟩ := boundary_frame s
    exact .of_eq e rfl hlink rfl
  | declarationHandedToCe =>
    obtain ⟨_, _, _, e, hlink⟩ := takeDeclaration_frame s
    exact .of_eq e rfl hlink rfl
  | selectionAttempt =>
    obtain ⟨_, e⟩ := attempt_frame s
    exact .of_eq e rfl rfl rfl
  | transmissionStart =>
    obtain ⟨_, _, e, hlink⟩ := start_frame s
    exact .of_eq e rfl hlink rfl
  | commandFrame frame | creditFrame frame => exact s.receive_linkFrame frame
  | linkUp => exact ⟨rfl, fun _ => .inl rfl, fun _ => .inl⟩
  | linkDown => exact ⟨rfl, fun _ => .inr s.linkReset_silent, nofun⟩
  | _ => exact .of_eq rfl rfl rfl rfl

theorem State.period_linkFrame (s : State) : s.LinkFrame s.period := by
  obtain ⟨-, -, -, _, _, e⟩ := acquisition_frame s []
  exact .of_eq e rfl rfl rfl

/-- A command at its turn takes its frame from the queue (R162). -/
theorem commandAct_linkFrame {i : Instr} {f : CommandFrame} {s : State} {rest : List CommandFrame}
    (hc : commandOf i = some f) (hx : s.Executes f rest) : s.LinkFrame (commandAct f i (s.dequeued rest)) := by
  obtain ⟨-, hq, -⟩ := hx
  obtain ⟨_, _, _, _, _, _, _, _, e⟩ := commandAct_frame hc (s.dequeued rest)
  rw [e]
  exact ⟨rfl, .inl, fun g hg => .inl (hq ▸ .tail f hg)⟩

/-! ### The invariant -/

/-- The three invariants of the statement. -/
structure State.LinksOk (s : State) : Prop where
  down : s.dlt.link = .down → s.Silent
  porst : s.PorstOk
  commands : s.CommandsOk

theorem State.linksOk_iff (s : State) : s.DownOk ∧ s.PorstOk ∧ s.CommandsOk ↔ s.LinksOk := by
  rw [s.downOk_iff]
  exact ⟨fun ⟨hdown, hporst, hcommands⟩ => ⟨hdown, hporst, hcommands⟩,
    fun h => ⟨h.down, h.porst, h.commands⟩⟩

theorem State.powerOnReset_linksOk (s : State) : s.powerOnReset.LinksOk where
  down _ := s.powerOnReset_silent
  porst _ := rfl
  commands := nofun

section
variable {s : State} (h : s.LinksOk)
include h

/-- With PORST released and a DOWN link left silent, the frame of an event or an act keeps the invariant. -/
theorem State.LinksOk.next {t : State} (hp : s.porst = .released) (hframe : s.LinkFrame t)
    (hdown : s.dlt.link = .down → t.Silent) : t.LinksOk where
  down ht := by
    cases hs : s.dlt.link with
    | down => exact hdown hs
    | up => exact (hframe.link hs).resolve_left (by simp [ht])
  porst ht := by
    rw [hframe.porst, hp] at ht
    cases ht
  commands f hf n hn := by
    rcases hframe.commands f hf with hold | ⟨frame, hread⟩
    · exact h.commands f hold n hn
    · exact readCommandFrame_arguments hread hn

/-- The reset values do not name the events that wait. -/
theorem State.LinksOk.queue (q : List Instr) : State.LinksOk { s with pending := q } where
  down hdown := { h.down hdown with }
  porst hp := congrArg (fun s : State => { s with pending := q }) (h.porst hp)
  commands := h.commands

theorem State.LinksOk.released : State.LinksOk { s with porst := .released } where
  down hdown := { h.down hdown with }
  porst := nofun
  commands := h.commands

/-- No period passes while PORST is asserted (R182). -/
theorem State.LinksOk.period : s.period.LinksOk := by
  cases hp : s.porst with
  | asserted =>
    have hstands : s.period = s := if_neg (by simp [State.timeBaseRuns, hp])
    rwa [hstands]
  | released =>
    refine h.next hp s.period_linkFrame fun hdown => ?_
    obtain ⟨-, -, -, _, _, e⟩ := acquisition_frame s []
    exact e ▸ { h.down hdown with }

/-- A row keeps the invariant: a DOWN link has no command to execute. -/
theorem State.LinksOk.exec {i : Instr} {t : State} (he : exec i s = .next t) : t.LinksOk :=
  exec_keeps (Inv := State.LinksOk) (assert := fun s _ => s.powerOnReset_linksOk) (release := fun _ h => h.released)
    (event := fun i s _ hp h => h.next hp (eventEffect_linkFrame i s) fun hdown =>
      (h.down hdown).eventEffect i hp hdown)
    (act := fun _ _ _ _ hc _ hx h => h.next hx.1 (commandAct_linkFrame hc hx) fun hdown =>
      absurd ((h.down hdown).commands.symm.trans hx.2.1) nofun)
    h he

end

end Sys2Proof.Machine

namespace Sys2Proof.Proofs

open Sys2Proof.Machine

/-- Settles O57: every event, every command's act and a period keep what they find of the pin, the link and the command
queue, and a silent part stays silent while its link is DOWN. -/
theorem everyStepKeepsTheLinksOk : Obligations.EveryStepKeepsTheLinksOk := by
  unfold Obligations.EveryStepKeepsTheLinksOk
  intro s t hs hstep
  rw [State.linksOk_iff] at hs ⊢
  exact step_keeps (Inv := State.LinksOk) (queue := fun _ q h => h.queue q) (row := fun _ _ _ h he => h.exec he)
    (period := fun _ h => h.period) hs hstep

end Sys2Proof.Proofs
end

section
/-! Command frames received, and the commands on several blocks: the four tests of R161 by byte position, what is read
back of a frame laid out with its check (R176, R177, R179), the answers of READ_STATUS, RESYNC and an unknown command
(R167, R171 to R173, R175), and what a refused command leaves (R165). -/

namespace Sys2Proof.Machine

/-! ### The four tests of a command frame (R161, R179) -/

/-- A code has no argument length exactly when it is none of the sixteen. -/
theorem argumentLength_none_iff (code : Byte) :
    argumentLength code = none ↔ code.toNat = 0 ∨ 16 < code.toNat := by
  rw [Option.eq_none_iff_forall_ne_some]
  simp only [ne_eq, argumentLength_iff]
  constructor
  · intro hnone
    by_contra hcode
    have hk : code.toNat - 1 < 16 := by omega
    exact hnone _ ⟨code.toNat - 1, by omega, List.getElem?_eq_getElem hk⟩
  · rintro hcode n ⟨k, hk, hn⟩
    obtain ⟨hlt, -⟩ := List.getElem?_eq_some_iff.mp hn
    simp only [List.length_cons, List.length_nil] at hlt
    omega

/-- Reading a command frame as the four tests on byte positions. -/
theorem readCommandFrame_iff (frame : List Byte) (f : CommandFrame) :
    readCommandFrame frame = some f ↔
      checkGood frame = true ∧ frame.getD 0 0 = 65 ∧ 5 ≤ frame.length ∧
      (∀ n, argumentLength (frame.getD 2 0) = some n → frame.length = n + 5) ∧
      f = ⟨frame.getD 1 0, frame.getD 2 0, (frame.drop 3).take (frame.length - 5)⟩ := by
  cases hcheck : checkGood frame with
  | false => simp [readCommandFrame, hcheck]
  | true =>
    match frame with
    | [] | [_] | [_, _] => simp [readCommandFrame, hcheck]
    | kind :: tag :: code :: rest =>
      have hrest : (kind :: tag :: code :: rest).length = rest.length + 3 := rfl
      have htake : rest.length + 3 - 5 = rest.length - 2 := by omega
      simp only [readCommandFrame, hcheck, hrest, htake, List.getD_cons_zero, List.getD_cons_succ, List.drop_succ_cons,
        List.drop_zero, Config.kindCommand, Bool.not_true, Bool.false_eq_true, if_false, true_and]
      by_cases hhead : kind ≠ 65 ∨ rest.length + 3 < 5
      · rw [if_pos hhead]
        refine ⟨nofun, fun ⟨hkind, hlong, _⟩ => ?_⟩
        rcases hhead with h | h
        · exact absurd hkind h
        · omega
      rw [if_neg hhead]
      push Not at hhead
      cases hn : argumentLength code with
      | none => simp [hhead, eq_comm]
      | some n =>
        by_cases hlen : rest.length = n + 2
        · simp [hhead, hlen, eq_comm]
        · simp [hlen]

/-! ### Frames laid out and read back (R176, R177, R179) -/

/-- A frame is read back when its arguments have the length of its command. -/
theorem readCommandFrame_bytes (f : CommandFrame)
    (hlength : ∀ n, argumentLength f.code = some n → f.arguments.length = n) :
    readCommandFrame f.bytes = some f := by
  have hlen : f.bytes.length = f.arguments.length + 5 := withCheck_length _
  have hargs : (f.bytes.drop 3).take (f.bytes.length - 5) = f.arguments := by
    rw [hlen, Nat.add_sub_cancel]
    exact List.take_left
  refine (readCommandFrame_iff _ _).mpr ⟨checkGood_withCheck _, rfl, by omega, fun n hn => ?_, ?_⟩
  · rw [hlen, hlength n hn]
  · rw [hargs]
    rfl

/-- Every well-formed command row names a frame with the arguments of its command's length. -/
theorem commandOf_frameLength (i : Instr) : Laws.FrameLength.Statement i := by
  cases i with
  | unknownCommand tag code arguments => exact Laws.FrameLength.unknownCommand tag code arguments
  | readEntry | writeEntry | loadShadow | commit | setGroup | readGroup | clearFactors | returnLevel | reportGate
  | substitute | readSubstitutions | capture | cancelCapture | readStatus | setLink | resync =>
    exact Laws.FrameLength.of_some rfl rfl
  | _ => exact Laws.FrameLength.of_none rfl

/-- Two argument bytes that lay out a field are read as the field. -/
theorem CommandFrame.argHalf_eq {f : CommandFrame} {i : Nat} {h : Half} (hhigh : f.arg i = h.extractLsb' 8 8)
    (hlow : f.arg (i + 1) = h.extractLsb' 0 8) : f.argHalf i = h := by
  rw [CommandFrame.argHalf, hhigh, hlow, halfOf_bytes]

/-- A frame with a code that is none of the sixteen names the unknown command. -/
theorem CommandFrame.row_unknown {f : CommandFrame} (h : f.code.toNat = 0 ∨ 16 < f.code.toNat) :
    f.row = .unknownCommand f.tag f.code f.arguments := by
  unfold CommandFrame.row
  split
  case h_17 => rfl
  all_goals omega

/-- The frame of a well-formed command row names the same row, with every operand. -/
theorem row_commandOf {i : Instr} {f : CommandFrame} (hw : i.wellFormed = true) (hc : commandOf i = some f) :
    f.row = i := by
  cases i with
  | writeEntry tag channel e =>
    cases hc
    refine congrArg (Instr.writeEntry tag channel) ?_
    obtain ⟨mode, high, low, hysteresis, stepLimit, onset, release, presence, onsetFactor, releaseFactor⟩ := e
    congr 1 <;> exact CommandFrame.argHalf_eq rfl rfl
  | substitute tag channel form value =>
    cases hc
    exact congrArg (Instr.substitute tag channel form) (CommandFrame.argHalf_eq rfl rfl)
  | capture tag channels limit =>
    cases hc
    exact congrArg (Instr.capture tag · limit) (wordOf_bytes channels)
  | setLink tag timeout forwarding =>
    cases hc
    exact congrArg (Instr.setLink tag · forwarding) (CommandFrame.argHalf_eq rfl rfl)
  | unknownCommand tag code arguments =>
    cases hc
    exact CommandFrame.row_unknown ((argumentLength_none_iff code).mp (Option.isNone_iff_eq_none.mp hw))
  | _ => cases hc <;> rfl

/-- The entries of a sample frame take 3 bytes each. -/
theorem sampleBytes_length (xs : List Sample) :
    (xs.flatMap fun x => byteOf x.channel.val :: halfBytes x.value).length = 3 * xs.length := by
  simp [List.length_flatMap, Nat.mul_comm]

/-- A sample frame of 1 to 16 entries is read back (R177). -/
theorem readArrival_sampleFrameBytes (q : Byte) (ts : Word) {xs : List Sample} (hmin : 1 ≤ xs.length)
    (hmax : xs.length ≤ 16) : readArrival (sampleFrameBytes q ts xs) = .good q ts xs := by
  have hcount : ((sampleFrameBytes q ts xs).getD 6 0).toNat = xs.length :=
    (BitVec.toNat_ofNat _ _).trans (Nat.mod_eq_of_lt (by omega))
  have hlen : (sampleFrameBytes q ts xs).length = 9 + 3 * xs.length := by
    rw [sampleFrameBytes, withCheck_length, List.length_append, sampleBytes_length]
    exact Nat.add_right_comm 7 (3 * xs.length) 2
  have hstamp : wordOf ((sampleFrameBytes q ts xs).getD 2 0) ((sampleFrameBytes q ts xs).getD 3 0)
      ((sampleFrameBytes q ts xs).getD 4 0) ((sampleFrameBytes q ts xs).getD 5 0) = ts := wordOf_bytes ts
  have hsamples : readSamples xs.length ((sampleFrameBytes q ts xs).drop 7) = some xs := readSamples_bytes xs _
  have hheader : ¬(checkGood (sampleFrameBytes q ts xs) = false ∨ (sampleFrameBytes q ts xs).getD 0 0 ≠ 17 ∨
      (sampleFrameBytes q ts xs).length < 9) := by
    rintro (h | h | h)
    · exact absurd ((checkGood_withCheck _).symm.trans h) nofun
    · exact h rfl
    · omega
  rw [readArrival_eq, if_neg hheader, hcount, if_neg (by omega), hsamples, hstamp]
  rfl

/-! ### READ_STATUS (R171 to R173, R181) -/

/-- A flag above 1 is refused (R168, R171). -/
theorem readStatus_bad (f : CommandFrame) {flag : Byte} (h : 1 < flag.toNat) (s : State) :
    readStatus f flag s = s.badArgument f := by
  unfold readStatus
  split
  next h0 => omega
  next h1 => omega
  next => rfl

/-- Flag 0 reports and clears nothing (R173). -/
theorem readStatus_reports (f : CommandFrame) (s : State) : readStatus f 0 s = s.respond f .done s.statusBytes := rfl

/-- Flag 1 clears the sixteen counters, and reports them as they stood (R173). -/
theorem readStatus_clears (f : CommandFrame) (s : State) :
    readStatus f 1 s = ({ s with
      alr := { s.alr with counters := ⟨0, 0, 0, 0, 0, 0, 0⟩ }
      ce := { s.ce with forwarded := 0, shed := 0 }
      dlt := { s.dlt with counters := ⟨0, 0, 0, 0, 0⟩ }
      mx := { s.mx with checkFail := 0, discarded := 0 } } : State).respond f .done s.statusBytes := rfl

/-- The state of commit control, item by item (R75). -/
theorem commitStatus_eq (commit : Option PendingCommit) :
    commitStatus commit =
      match commit with
      | none => [0, 0, 0, 0, 0]
      | some p => [1, 1, p.tag, 1, if p.suppressed then 1 else 0] := by
  cases commit <;> rfl

/-- The serial of the report in the slot, absent without one (R172). -/
theorem slotSerial_eq (slot : Option Report) :
    optionalHalf (slot.map (·.serial)) =
      match slot with
      | none => [0, 0, 0]
      | some r => 1 :: halfBytes r.serial := by
  cases slot <;> rfl

/-- A record of the capture list, with the channels it has collected as the length of a list (R137, R142). -/
theorem CaptureRecord.statusBytes_eq :
    CaptureRecord.statusBytes = fun r =>
      [r.tag, r.phase.byte, byteOf r.limit] ++ optionalByte r.phase.remainingByte ++
        [byteOf ((List.finRange 32).filter fun c => r.channels.getLsbD c.val && r.slots[c].isSome).length] := by
  funext r
  rw [CaptureRecord.statusBytes, CaptureRecord.collected_eq]

/-! ### Refusals (R165) -/

/-- The eleven refusal codes. -/
theorem ResponseCode.isRefusal_iff (code : ResponseCode) :
    code.isRefusal = true ↔
      code ∈ ([.badArgument, .badEntry, .commitPending, .notInService, .staleReturn, .listFull, .noValue,
        .captureBusy, .tagInUse, .noSuchCapture, .unknownCommand] : List ResponseCode) := by
  cases code <;> decide

/-- Of the four shapes of a command's act, only a refusal appends a single response with a refusal code. -/
theorem ActShape.refused {f : CommandFrame} {s t : State} {r : Response} (h : ActShape f s t)
    (hone : t.dlt.responses = s.dlt.responses ++ [r]) (hr : r.code.isRefusal = true) :
    ∃ code payload, r = ⟨f.tag, f.code, code, payload⟩ ∧ t = s.respond f code payload := by
  cases h with
  | refuse code payload _ =>
    obtain rfl := List.singleton_inj.mp (List.append_cancel_left hone)
    exact ⟨code, payload, rfl, rfl⟩
  | answer _ _ _ _ _ _ code payload hcode _ _ =>
    obtain rfl := List.singleton_inj.mp (List.append_cancel_left hone)
    exact absurd (hr.symm.trans hcode) nofun
  | reserve ce _ _ =>
    exact absurd (List.self_eq_append_right.mp hone) nofun
  | cancel record examined payload _ =>
    have htwo := congrArg List.length hone
    simp at htwo

end Sys2Proof.Machine

namespace Sys2Proof.Proofs

open Sys2Proof.Machine

/-- Settles O25: the tests of `readCommandFrame_iff`, with the argument lengths as the list of R179. -/
theorem commandFrameTests : Obligations.CommandFrameTests := by
  unfold Obligations.CommandFrameTests
  intro frame f
  simp only [readCommandFrame_iff, argumentLength_iff, forall_exists_index, and_imp]
  rw [forall_comm]

/-- Settles O44: the report flattened into its items, then `readStatus` by its flag. -/
theorem readStatusReportsThenClears : Obligations.ReadStatusReportsThenClears := by
  unfold Obligations.ReadStatusReportsThenClears
  intro s tag flag rest hx optional a ac dc lock freshness forwarding gate link status
  have hstatus : (s.dequeued rest).statusBytes = status := by
    simp only [status, State.statusBytes, Alr.statusBytes, Ce.statusBytes, Fru.statusBytes, Dlt.statusBytes,
      Mx.statusBytes, IngressCounters.bytes, EgressCounters.bytes, Timer.byte_eq, commitStatus_eq, slotSerial_eq,
      CaptureRecord.statusBytes_eq, List.append_assoc]
    rfl
  rw [exec_command_executes rfl rfl hx, commandAct]
  refine ⟨fun hbad => ?_, fun h0 => ?_, fun h1 => ?_⟩
  · rw [readStatus_bad _ hbad, State.badArgument_dequeued]
  · rw [h0, readStatus_reports, hstatus, State.respond_dequeued]
  · rw [h1, readStatus_clears, hstatus]
    rfl

/-- Settles O50: a row that is no execution appends nothing, and of the shapes of an act only a refusal has the code. -/
theorem refusalsChangeOnlyTheResponseQueue : Obligations.RefusalsChangeOnlyTheResponseQueue := by
  unfold Obligations.RefusalsChangeOnlyTheResponseQueue
  intro i f rest s t r hc hx he hone hcode
  cases hw : i.wellFormed with
  | false =>
    rw [exec_command_ill hc hw] at he
    cases he
    exact absurd (List.self_eq_append_right.mp hone) nofun
  | true =>
    rw [exec_command_executes hc hw hx] at he
    cases he
    obtain ⟨code, payload, rfl, hact⟩ :=
      (commandAct_shape hc (s.dequeued rest)).refused hone (r.code.isRefusal_iff.mpr hcode)
    rw [hact, State.respond_dequeued]

/-- Settles O59: both frames are what `CommandFrame.bytes` and `sampleFrameBytes` lay out, and each is read back. -/
theorem receivedFramesReadBack : Obligations.ReceivedFramesReadBack := by
  unfold Obligations.ReceivedFramesReadBack
  refine ⟨checkGood_iff, fun i f hw hc => ⟨?_, row_commandOf hw hc⟩, fun q ts xs hmin hmax => ?_⟩
  · exact readCommandFrame_bytes f fun n hn => commandOf_frameLength i hw f n hc hn
  · exact readArrival_sampleFrameBytes q ts hmin hmax

/-- Settles O46: at its turn the row is `resync` on the state without its frame. -/
theorem resyncClearsTheTracker : Obligations.ResyncClearsTheTracker := by
  unfold Obligations.ResyncClearsTheTracker
  intro s tag rest hx
  rw [exec_command_executes rfl rfl hx, commandAct]
  rfl

/-- Settles O47: a code that is none of the sixteen makes the row well formed, so it executes. -/
theorem unknownCommandIsAnswered : Obligations.UnknownCommandIsAnswered := by
  unfold Obligations.UnknownCommandIsAnswered
  intro s tag code arguments rest hcode hx
  have hw : (Instr.unknownCommand tag code arguments).wellFormed = true :=
    Option.isNone_iff_eq_none.mpr ((argumentLength_none_iff code).mpr hcode)
  rw [exec_command_executes rfl hw hx, commandAct, unknownCommand, State.respond_dequeued]

end Sys2Proof.Proofs
end

section
/-! Power-on reset: what the two rows of PORST do, that a part held in reset stands still, and that the reset state
meets every invariant (R182). -/

namespace Sys2Proof.Machine

/-! ### A part held in reset (R182) -/

/-- Asserting PORST of a part held in reset finds every item at its reset value already. -/
theorem State.powerOnReset_of_held {s : State} (hp : s.porst = .asserted) (held : s.PorstOk) : s.powerOnReset = s :=
  (held hp).symm

/-- Releasing PORST of a part held in reset leaves the reset state and the events that wait. -/
theorem State.released_of_held {s : State} (hp : s.porst = .asserted) (held : s.PorstOk) :
    { s with porst := .released } = { State.reset with pending := s.pending } :=
  congrArg (fun s : State => { s with porst := .released }) (held hp)

/-- While PORST is asserted every row but the two of PORST is held at the gate. -/
theorem exec_asserted {i : Instr} {s : State} (hp : s.porst = .asserted) (ha : i ≠ .porstAssert)
    (hr : i ≠ .porstRelease) : exec i s = .next s := by
  cases hc : commandOf i with
  | none => rw [exec_event hc ha hr, State.taking_asserted _ hp]
  | some f =>
    cases hw : i.wellFormed with
    | false => exact exec_command_ill hc hw s
    | true => rw [exec_command hc hw, State.taking_asserted _ hp]

/-! ### The invariants at reset -/

/-- The reset state is what a release of PORST makes of a part held in reset, and releasing keeps the invariant. -/
theorem State.reset_linksOk : State.reset.LinksOk :=
  State.reset.powerOnReset_linksOk.released

end Sys2Proof.Machine

namespace Sys2Proof.Proofs

open Sys2Proof.Machine

/-- Settles O3: an assertion finds the reset values in place, and the gate of PORST holds every other row. -/
theorem nothingHappensWhilePorstIsAsserted : Obligations.NothingHappensWhilePorstIsAsserted := by
  unfold Obligations.NothingHappensWhilePorstIsAsserted
  intro i s hp held hr
  by_cases ha : i = .porstAssert
  · subst ha
    exact congrArg Host.Outcome.next (State.powerOnReset_of_held hp held)
  · exact exec_asserted hp ha hr

/-- Settles O2: both rows by definition; a part held in reset and released is `State.reset` but for its events. -/
theorem porstAssertAndRelease : Obligations.PorstAssertAndRelease := by
  unfold Obligations.PorstAssertAndRelease
  refine ⟨fun s => rfl, fun s => rfl, fun s hp held => ⟨_, rfl, State.released_of_held hp held, ?_⟩⟩
  rw [State.released_of_held hp held]
  exact ⟨rfl, rfl, rfl⟩

/-- Settles O58: each block's reset value meets its invariant, in the form in which the steps keep it. -/
theorem powerOnResetMeetsEveryInvariant : Obligations.PowerOnResetMeetsEveryInvariant := by
  unfold Obligations.PowerOnResetMeetsEveryInvariant
  obtain ⟨halr, hframes⟩ := State.reset.ingressOk_iff.mpr Alr.ingressOk_reset
  have htable := State.reset.tableOk_iff.mpr Table.ok_reset
  obtain ⟨hsubstitutions, hcaptures⟩ := State.reset.listsOk_iff.mpr Ce.lists_ok_reset
  obtain ⟨hqueues, hresponses⟩ := State.reset.fillOk_iff.mpr Fill.ok_empty
  obtain ⟨hfactors, hsources, hstack⟩ := State.reset.reportUnitOk_iff.mpr ⟨Fru.reportOk_reset, Handed.sourcesOk_reset⟩
  obtain ⟨hdown, hporst, hcommands⟩ := State.reset.linksOk_iff.mpr State.reset_linksOk
  exact ⟨halr, hframes, htable, hsubstitutions, hcaptures, hqueues, hresponses, hfactors, hsources, hstack, hdown,
    hporst, hcommands⟩

end Sys2Proof.Proofs
end

section
/-! The frames sent: the check bit by bit, and the fields of report, forwarded sample and response frames byte by byte
with their lengths (R176 to R179). -/

namespace Sys2Proof.Machine

/-! ### The check (R176) -/

/-- One bit of the check, by the bit it shifts out. -/
theorem crcShift_eq (r : Half) : crcShift r = if r.getLsbD 15 then (r <<< 1) ^^^ 0x1021 else r <<< 1 := by
  rw [crcShift, BitVec.msb_eq_getLsbD_last]

/-! ### The fields of a report (R178, R179) -/

/-- The presence byte and the four fields of a first cause, the presence as a sum of its bits. -/
theorem Cause.bytes_eq (c : Cause) :
    c.bytes = [(if c.sequence.isSome then 1 else 0) + (if c.timestamp.isSome then 2 else 0) +
        (if c.channel.isSome then 4 else 0) + (if c.value.isSome then 8 else 0), c.sequence.getD 0] ++
      wordBytes (c.timestamp.getD 0) ++ [BitVec.ofNat 8 ((c.channel.map (·.val)).getD 0)] ++
      halfBytes (c.value.getD 0) := by
  rw [Cause.bytes, Cause.presence, flagBytes_four]
  rfl

theorem Report.bytes_length (r : Report) : r.bytes.length = 20 := withCheck_length _

/-! ### The entries of a forwarded frame (R177) -/

/-- The mark in bit 7 lies above the channel. -/
theorem channelByte_eq (c : Channel) (substituted : Bool) :
    byteOf c.val ||| (flagByte substituted <<< 7) = BitVec.ofNat 8 (c.val + if substituted then 128 else 0) := by
  revert c
  cases substituted <;> decide

theorem OutputSample.bytes_eq (x : OutputSample) :
    x.bytes = BitVec.ofNat 8 (x.channel.val + if x.substituted then 128 else 0) :: halfBytes x.value := by
  rw [OutputSample.bytes, channelByte_eq]

/-- Each entry takes 3 bytes, the fields before them and the check together 10. -/
theorem OutputFrame.bytes_length (f : OutputFrame) : f.bytes.length = 10 + 3 * f.samples.length := by
  have hentries : (f.samples.flatMap OutputSample.bytes).length = 3 * f.samples.length := by
    simp [List.length_flatMap, OutputSample.bytes, Nat.mul_comm]
  rw [OutputFrame.bytes, withCheck_length, List.length_append, hentries]
  exact Nat.add_right_comm 8 (3 * f.samples.length) 2

/-! ### A response (R179) -/

theorem Response.bytes_length (r : Response) : r.bytes.length = 7 + r.payload.length := by
  rw [Response.bytes, withCheck_length, List.length_append]
  exact Nat.add_right_comm 5 r.payload.length 2

end Sys2Proof.Machine

namespace Sys2Proof.Proofs

open Sys2Proof.Machine

/-- Settles O60: each layout is the model's with the presence bits, the nibble and the entry bytes written out, and the
codes are those of `Freshness.byte` and `ResponseCode.byte`. -/
theorem outboundFrameLayouts : Obligations.OutboundFrameLayouts := by
  unfold Obligations.OutboundFrameLayouts
  refine ⟨halfBytes_eq, wordBytes_eq, crc_nil, fun bytes b => ?_, fun r => ⟨?_, r.bytes_length⟩,
    fun f => ⟨?_, f.bytes_length⟩, fun r => ⟨rfl, r.bytes_length⟩⟩
  · rw [crc_append_byte, crcByte, upperByte]
    simp only [crcShift_eq]
  · rw [Report.bytes, Cause.bytes_eq, nibbleByte_eq]
    rfl
  · rw [OutputFrame.bytes, funext OutputSample.bytes_eq]
    rfl

end Sys2Proof.Proofs
end

section
/-! The step with an event in front of the queue (notes/assumptions/14.md): the counterpart of the step on an empty
queue, which `emptyQueueStep` settles. -/

namespace Sys2Proof.Machine

/-- The event in front leaves the queue before it is run, so what it does is decided by the queue's rest. -/
theorem step_of_pending_cons {s : State} {c : Instr} {rest : List Instr} (hq : s.pending = c :: rest) :
    step s = exec c { s with pending := rest } := by
  simp only [step, hq]

end Sys2Proof.Machine

namespace Sys2Proof.Proofs

open Sys2Proof.Machine

/-- Settles O51: the second branch of `step`, on a state whose queue is written out; what the queue held before is
overwritten twice. -/
theorem stepTakesTheFrontEvent : Obligations.StepTakesTheFrontEvent := by
  unfold Obligations.StepTakesTheFrontEvent
  intro c rest s
  have hfront : ({ s with pending := c :: rest } : State).pending = c :: rest := rfl
  exact step_of_pending_cons hfront

end Sys2Proof.Proofs
end
